-- ==== Sys2Proof/Word.lean ====
section
/-! DEFINITION. The word types of CORE (spec/00_scope.md R9): a byte is 8 bits, unsigned unless a rule says signed. -/

namespace Sys2Proof

/-- A byte: 8 bits, value 0 to 255 (R9). -/
abbrev Byte := BitVec 8

/-- The 16-bit pattern of a header field or of an Encoder word (R66, R211). -/
abbrev Half := BitVec 16

end Sys2Proof
end

