-- ==== Sys2Proof/Config.lean ====
section
/-! DEFINITION. What an implementation fixes (the constants of R7, the parameters of R8) and the free values that stand
for everything the spec leaves open. A free value has no body: no proof can learn what it is. -/

namespace Sys2Proof.Config

/-- `HDR_SIZE`: size of the header record, and offset of the first compressed byte (R7). -/
def hdrSize : Nat := 128
/-- `PAL_SIZE`: size of the trailing palette block, 256 x 3 (R7). -/
def palSize : Nat := 768
/-- `PAL_ENTRIES` (R7). -/
def palEntries : Nat := 256
/-- `MIN_LEN = HDR_SIZE + PAL_SIZE`, "header+palette minimum" (R7). -/
def minLen : Nat := 896
/-- `OFF_BPP`: byte offset of `bits_per_pixel` (R7). -/
def offBpp : Nat := 3
/-- `BPP_OK`: the only accepted bit depth (R7). -/
def bppOk : Byte := 8
/-- `RUN_BASE`: a byte above it marks a run (R7). -/
def runBase : Byte := 192
/-- `Q_DIV`: the palette channel divisor (R7). -/
def qDiv : Byte := 8

/-- The parameters the source leaves to the implementation (R8). -/
structure Params where
  /-- `RAW_CAP`: capacity of the input memory in bytes. -/
  rawCap : Nat
  /-- `PIX_CAP`: capacity of the pixel memory in bytes. -/
  pixCap : Nat
  /-- `OFF_XMAX`: byte offset of `x_max` in the header (the spec's default is 8). -/
  offXmax : Nat
  /-- `OFF_YMAX`: byte offset of `y_max` in the header (the spec's default is 10). -/
  offYmax : Nat
  deriving DecidableEq, Repr

/-- R8's constraints on the parameters (the launch premise `P_params` of R263). -/
abbrev Params.Ok (p : Params) : Prop :=
  (896 ≤ p.rawCap ∧ p.rawCap ≤ 2 ^ 32 - 1) ∧ (1 ≤ p.pixCap ∧ p.pixCap ≤ 2 ^ 30) ∧
    p.offXmax ≤ 126 ∧ p.offYmax ≤ 126

/-- `x` brought into the range `lo` to `hi`. -/
def clamp (lo hi x : Nat) : Nat := max lo (min x hi)

/-- Free: the instance's choice of `RAW_CAP` (R8, D8). -/
opaque rawCapChoice : Nat
/-- Free: the instance's choice of `PIX_CAP` (R8, D8). -/
opaque pixCapChoice : Nat
/-- Free: the instance's choice of `OFF_XMAX` (R8, D3). -/
opaque offXmaxChoice : Nat
/-- Free: the instance's choice of `OFF_YMAX` (R8, D3). -/
opaque offYmaxChoice : Nat

/-- The parameters of this machine: any that meet R8's constraints, so a claim about the model holds for every
instance. DESIGN CHOICE (log 8). -/
def params : Params where
  rawCap := clamp 896 (2 ^ 32 - 1) rawCapChoice
  pixCap := clamp 1 (2 ^ 30) pixCapChoice
  offXmax := clamp 0 126 offXmaxChoice
  offYmax := clamp 0 126 offYmaxChoice

/-- The elements of CORE's state that can hold no value (R20, R44): the names by which a free value is asked for. -/
inductive Element where
  | len | rp | wp | rc | rv | pi | bpp | xmax | ymax | width | height | pixcnt
  | raw (a : Nat) | pix (a : Nat) | pal (a : Nat)
  deriving DecidableEq, Repr

/-- Free: what the hardware reads from element `e` while it holds no value, in the `epoch`-th period since the input
was last released. R264 and U4 give an unwritten `RAW` cell an unspecified byte; the other elements (any value in
hardware, U7) follow it. One value per element and period: a read has no side effect and reading twice gives the same
(R71). DESIGN CHOICE (log 2). -/
opaque held (w : Nat) (e : Element) (epoch : Nat) : BitVec w

/-- Free: what the `n`-th unspecified HOST read returns for element `e` (R196, U5). DESIGN CHOICE (log 4). -/
opaque hostRead (w : Nat) (e : Element) (n : Nat) : BitVec w

/-- Free: the 16-bit word the Encoder forms where the spec defines none (R211, N9, U9), for the `n`-th such call.
DESIGN CHOICE (log 15). -/
opaque undefinedWord (n : Nat) : Half

end Sys2Proof.Config
end

