-- ==== Sys2Proof/Syntax.lean ====
section
/-! DEFINITION. The operations of CORE and the moves of HOST, one constructor of `Instr` per row of
spec/opcode_table.json, and the events of HOST's schedule. -/

namespace Sys2Proof

/-- One constructor per row of the opcode table (R115). -/
inductive Instr where
  /-- `LIT.00`: literal token, first-byte top bits 00; `v` is the whole byte (R104). -/
  | lit00 (v : Byte)
  /-- `LIT.01`: literal token, first-byte top bits 01. -/
  | lit01 (v : Byte)
  /-- `LIT.10`: literal token, first-byte top bits 10. -/
  | lit10 (v : Byte)
  /-- `LIT.C0`: the boundary byte 192, a literal (R106). -/
  | litC0
  /-- `RUN n, v`: run token, `n` copies of `v` (R104, R107). -/
  | run (n : BitVec 6) (v : Byte)
  /-- `RUN.REP`: one copy of the run value (R159). -/
  | runRep
  /-- `RLE.OPEN`: sizing and set-up of the RLE Decoder (R150). -/
  | rleOpen
  /-- `RLE.CLOSE`: end of the compressed region (R158). -/
  | rleClose
  /-- `HDR`: the whole Header Parser step (R130). -/
  | hdr
  /-- `HDR.LEN`: its length precondition (R131). -/
  | hdrLen
  /-- `HDR.UNPACK`: its record unpack (R132). -/
  | hdrUnpack
  /-- `HDR.CHECK`: its bit-depth validation (R133, R135). -/
  | hdrCheck
  /-- `PAL.Q`: quantise one palette byte `v` (R181). -/
  | palQ (v : Byte)
  /-- `PAL.CLOSE`: end of the palette block (R182). -/
  | palClose
  /-- `START`: HOST begins a run (R192). -/
  | start
  /-- `CLEAR`: HOST releases everything (R193). -/
  | clear
  /-- `WRITE_LEN(n)`: HOST sets the input length (R191). -/
  | writeLen (n : BitVec 32)
  /-- `WRITE_RAW(a, b)`: HOST sets one input byte (R191). -/
  | writeRaw (a : Nat) (b : Byte)
  /-- `READ_STATUS` (R194). -/
  | readStatus
  /-- `READ_HDR` (R194). -/
  | readHdr
  /-- `READ_PIX(a)` (R194). -/
  | readPix (a : Nat)
  /-- `READ_PAL(a)` (R194). -/
  | readPal (a : Nat)
  /-- `PACK.PIX`: the Encoder's pixel word `j` (R211). -/
  | packPix (j : Nat)
  /-- `PACK.PAL`: the Encoder's colour word `k` (R212). -/
  | packPal (k : Nat)
  deriving DecidableEq, Repr

/-- HOST's moves (R190), the Encoder's two packing functions among them: the Encoder is part of HOST (R6). -/
inductive HostMove where
  | start | clear
  | writeLen (n : BitVec 32)
  | writeRaw (a : Nat) (b : Byte)
  | readStatus | readHdr
  | readPix (a : Nat)
  | readPal (a : Nat)
  | packPix (j : Nat)
  | packPal (k : Nat)
  deriving DecidableEq, Repr

/-- The instruction a move of HOST executes. -/
def HostMove.toInstr : HostMove → Instr
  | .start => .start
  | .clear => .clear
  | .writeLen n => .writeLen n
  | .writeRaw a b => .writeRaw a b
  | .readStatus => .readStatus
  | .readHdr => .readHdr
  | .readPix a => .readPix a
  | .readPal a => .readPal a
  | .packPix j => .packPix j
  | .packPal k => .packPal k

/-- One turn of HOST's schedule: CORE's turn, a move of HOST (R190), or the external reset event (R260). -/
inductive Event where
  | core
  | host (m : HostMove)
  | reset
  deriving DecidableEq, Repr

/-- The two regions of `RAW` whose bytes select an operation: the region, not the byte's value, decides the format
(R100). The header's format H carries no bit pattern: `HDR` is selected by `STATE` (R115). -/
inductive Region where
  /-- Offsets 128 to `LEN - 769`: formats L and P (R104). -/
  | compressed
  /-- Offsets `LEN - 768` to `LEN - 1`: format C (R110). -/
  | palette
  deriving DecidableEq, Repr

/-- Why bytes are not an instruction: the decoder's rejections by name. -/
inductive Reject where
  /-- There is no byte to decode. -/
  | noByte
  /-- A run marker of count `n` whose value byte is not in the region (R111, R157). -/
  | danglingMarker (n : BitVec 6)
  deriving DecidableEq, Repr

end Sys2Proof
end

