-- ==== Sys2Proof/Machine/State.lean ====
section
/-! DEFINITION. The state of the machine (spec/10_state.md R20 to R45), its reset value (R43), and the reasons a step
can stop. -/

namespace Sys2Proof.Machine

/-- The sequencer's stage register `STATE` (R21). Value 7 is never taken and has no name here (U11). -/
inductive Stage where
  /-- 0 `IDLE`: no run in progress; HOST may write `LEN` and `RAW`. -/
  | idle
  /-- 1 `HDR`: Header Parser step pending. -/
  | hdr
  /-- 2 `OPEN`: RLE Decoder set-up step pending. -/
  | opening
  /-- 3 `RLE`: RLE Decoder running. -/
  | rle
  /-- 4 `PAL`: Palette Quantizer running. -/
  | pal
  /-- 5 `DONE`: run ended without fault; outputs valid. -/
  | done
  /-- 6 `FAULT`: run ended with a fault; `ERR` names it. -/
  | fault
  deriving DecidableEq, Repr

/-- `ERR`, the fault kind of the last run (R22); 5 to 7 are never taken. -/
inductive ErrKind where
  | none | unsupportedFormat | truncatedFile | corruptData | allocationFailure
  deriving DecidableEq, Repr

/-- A byte memory (R60): (address, byte) pairs, addresses strictly rising; an address that is not listed holds no
value (R44). -/
abbrev Memory := List Host.Cell

/-- What `READ_HDR` returns (R194). -/
structure HdrView where
  bpp : BitVec 8
  xmax : BitVec 16
  ymax : BitVec 16
  width : BitVec 17
  height : BitVec 17
  pixcnt : BitVec 31
  deriving DecidableEq, Repr

/-- What a read move or a packing function returns to HOST (R194, R211, R212). -/
inductive Response where
  /-- `READ_STATUS`: `STATE`, `ERR` and the flags `BUSY`, `DONE`, `FAULT` of R36. -/
  | status (stage : Stage) (err : ErrKind) (busyFlag doneFlag faultFlag : Bool)
  | hdr (h : HdrView)
  | pix (b : Byte)
  | pal (b : Byte)
  | word (w : Half)
  deriving DecidableEq, Repr

/-- The whole state. The first block is the spec's (R20: "The complete state of CORE is the following and nothing
else"); an element that can hold no value is `none` while it holds none, which is the spec's own state of it (R44,
log 1). The second block is the model's own. -/
structure State where
  /-- `STATE` (R21). -/
  stage : Stage
  /-- `ERR` (R22). -/
  err : ErrKind
  /-- `LEN`, the input length in bytes, unsigned (R23). -/
  len : Option (BitVec 32)
  /-- `rp`, the read pointer, CORE's program counter (R24). -/
  rp : Option (BitVec 32)
  /-- `wp`, the write pointer (R25). -/
  wp : Option (BitVec 31)
  /-- `rc`, the run counter (R26). -/
  rc : Option (BitVec 6)
  /-- `rv`, the run value (R27). -/
  rv : Option (BitVec 8)
  /-- `pi`, the palette index (R28). -/
  pi : Option (BitVec 10)
  /-- `BPP`, unsigned (R29). -/
  bpp : Option (BitVec 8)
  /-- `XMAX`, signed (R30). -/
  xmax : Option (BitVec 16)
  /-- `YMAX`, signed (R31). -/
  ymax : Option (BitVec 16)
  /-- `WIDTH`, signed (R32). -/
  width : Option (BitVec 17)
  /-- `HEIGHT`, signed (R33). -/
  height : Option (BitVec 17)
  /-- `PIXCNT`, unsigned (R34). -/
  pixcnt : Option (BitVec 31)
  /-- `RAW`, the input memory (R37). -/
  raw : Memory
  /-- `PIX`, the pixel memory (R38). -/
  pix : Memory
  /-- `PAL`, the palette memory (R39). -/
  pal : Memory
  /-- The model's own: HOST's schedule, the turns to come, first one first (log 6). -/
  inputs : List Event
  /-- The model's own: what the last read move or packing function returned to HOST (log 5). -/
  port : Option Response
  /-- The model's own: numbers the free values of elements that hold no value (log 2). -/
  epoch : Nat
  /-- The model's own: numbers the free values of unspecified HOST reads (log 4). -/
  draws : Nat
  deriving DecidableEq, Repr

/-- The state right after reset (R43): `STATE = IDLE`, `ERR = None`, every other element holds no value. -/
def State.reset : State where
  stage := .idle
  err := .none
  len := none
  rp := none
  wp := none
  rc := none
  rv := none
  pi := none
  bpp := none
  xmax := none
  ymax := none
  width := none
  height := none
  pixcnt := none
  raw := []
  pix := []
  pal := []
  inputs := []
  port := none
  epoch := 0
  draws := 0

/-- Why a step stops with a fault. The spec's faults are no stops: `raise` takes them as next states (R226). -/
inductive Fault where
  /-- CORE is BUSY and none of its operations is enabled: `RLE` with `rc = 0` and `rp > END`, or `PAL` with
  `pi > 768`. Raised by `step` alone. R24 and R28 say neither can arise. Safe: the model stops in states that no run
  reaches (log 11). -/
  | noOperationEnabled
  deriving DecidableEq, Repr

/-- Why an instruction has no meaning here. -/
inductive Refusal where
  /-- The instruction has no meaning in the model yet; raised by a refused arm of `exec` alone. Safe. -/
  | notModelled (mnemonic : String)
  /-- A CORE operation was given to `exec` in a state in which its select condition does not hold, where the spec
  gives it no effect because it is not taken (R154, R197). Raised by the meanings of CORE's operations; `step` gives
  `exec` an enabled operation only and never raises it. Safe (log 10). -/
  | notEnabled (mnemonic : String)
  deriving DecidableEq, Repr

/-- The outcome of a meaning. -/
abbrev Result := Host.Outcome State Fault Refusal

end Sys2Proof.Machine
end

