-- ==== Sys2Proof/Machine/Ops.lean ====
section
/-! DEFINITION. The named operations over memories and registers, taking a fault (`raise`, R226), and the two exits
from it (`release`, R193 and R260; there is no return from a fault, R232). -/

namespace Sys2Proof.Machine

/-! Memories (R60, R72): one byte per address; a write takes effect in the step that makes it. -/

/-- The byte at address `a`; `none` where the cell holds no value (R44). -/
def Memory.read : Memory → Nat → Option Byte
  | [], _ => none
  | (k, b) :: m, a => if k = a then some b else Memory.read m a

/-- The memory with byte `b` at address `a`. -/
def Memory.write : Memory → Nat → Byte → Memory
  | [], a, b => [(a, b)]
  | (k, c) :: m, a, b =>
    if a < k then (a, b) :: (k, c) :: m
    else if a = k then (a, b) :: m
    else (k, c) :: Memory.write m a b

/-- The canonical form: addresses strictly rising. An unlisted address holds no value, and no byte is "no value", so
every listed byte is in order. -/
abbrev Memory.wf (m : Memory) : Prop := m.Pairwise (fun x y => x.1 < y.1)

/-- The addresses that hold a value, in rising order. -/
def Memory.addresses (m : Memory) : List Nat := m.map Prod.fst

/-! Reading an element. One that holds no value is read as its free value of the current epoch (log 2, after R264, U4,
U7): no read is a fault. -/

/-- `LEN` as read. -/
def State.lenV (s : State) : BitVec 32 := s.len.getD (Config.held 32 .len s.epoch)
/-- `rp` as read. -/
def State.rpV (s : State) : BitVec 32 := s.rp.getD (Config.held 32 .rp s.epoch)
/-- `wp` as read. -/
def State.wpV (s : State) : BitVec 31 := s.wp.getD (Config.held 31 .wp s.epoch)
/-- `rc` as read. -/
def State.rcV (s : State) : BitVec 6 := s.rc.getD (Config.held 6 .rc s.epoch)
/-- `rv` as read. -/
def State.rvV (s : State) : Byte := s.rv.getD (Config.held 8 .rv s.epoch)
/-- `pi` as read. -/
def State.piV (s : State) : BitVec 10 := s.pi.getD (Config.held 10 .pi s.epoch)
/-- `BPP` as read. -/
def State.bppV (s : State) : Byte := s.bpp.getD (Config.held 8 .bpp s.epoch)
/-- `XMAX` as read. -/
def State.xmaxV (s : State) : Half := s.xmax.getD (Config.held 16 .xmax s.epoch)
/-- `YMAX` as read. -/
def State.ymaxV (s : State) : Half := s.ymax.getD (Config.held 16 .ymax s.epoch)
/-- `WIDTH` as read. -/
def State.widthV (s : State) : BitVec 17 := s.width.getD (Config.held 17 .width s.epoch)
/-- `HEIGHT` as read. -/
def State.heightV (s : State) : BitVec 17 := s.height.getD (Config.held 17 .height s.epoch)
/-- `PIXCNT` as read. -/
def State.pixcntV (s : State) : BitVec 31 := s.pixcnt.getD (Config.held 31 .pixcnt s.epoch)
/-- `RAW[a]` as read by CORE: an unwritten cell gives an unspecified byte (R264). -/
def State.rawV (s : State) (a : Nat) : Byte := (s.raw.read a).getD (Config.held 8 (.raw a) s.epoch)
/-- `PIX[a]` as read. -/
def State.pixV (s : State) (a : Nat) : Byte := (s.pix.read a).getD (Config.held 8 (.pix a) s.epoch)
/-- `PAL[a]` as read. -/
def State.palV (s : State) (a : Nat) : Byte := (s.pal.read a).getD (Config.held 8 (.pal a) s.epoch)

/-- Taking a fault, `raise K` (R226): `ERR <- K`, `STATE <- FAULT`, and every element other than `STATE`, `ERR`, `LEN`
and `RAW` holds no value from then on. Nothing is saved and control goes nowhere. -/
def raise (k : ErrKind) (s : State) : State :=
  { s with
    stage := .fault, err := k
    rp := none, wp := none, rc := none, rv := none, pi := none
    bpp := none, xmax := none, ymax := none, width := none, height := none, pixcnt := none
    pix := [], pal := [] }

/-- The release that `CLEAR` (R193) and the reset event (R260) make: `STATE <- IDLE`, `ERR <- None`, and every other
element, `LEN` and all of `RAW` included, holds no value from then on; a new epoch of free values begins. -/
def release (s : State) : State :=
  { s with
    stage := .idle, err := .none, len := none
    rp := none, wp := none, rc := none, rv := none, pi := none
    bpp := none, xmax := none, ymax := none, width := none, height := none, pixcnt := none
    raw := [], pix := [], pal := [], epoch := s.epoch + 1 }

/-- The reset event (R260): it may occur in any state, and a run in progress is abandoned without trace. -/
def resetEvent (s : State) : State := release s

/-- A read move returns `r` to HOST and changes nothing of CORE (R194). -/
def respond (r : Response) (s : State) : State := { s with port := some r }

/-- A HOST read outside the states or indices that R190 lists returns an unspecified value and changes nothing of CORE
(R196, U5): `r`, built from the free values of the current draw. -/
def respondFree (r : Response) (s : State) : State := { s with port := some r, draws := s.draws + 1 }

/-- A CORE operation is taken only while its select condition `c` holds (R154, R197; log 10). -/
def whenEnabled (mnemonic : String) (c : Prop) [Decidable c] (t : State) : Result :=
  if c then .next t else .refused (.notEnabled mnemonic)

end Sys2Proof.Machine
end

