-- ==== Sys2Proof/Machine/Operands.lean ====
section
/-! DEFINITION. Operand forms: the header fields (R66, R103), the region bounds (R11, R17, R35), the token and palette
operands (R107, R110, R181), and the arithmetic laws of R13 to R18. -/

namespace Sys2Proof.Machine

/-- The 16-bit little-endian field at offset `off`: `RAW[off] | (RAW[off + 1] << 8)` (R66). Its signed reading is
`BitVec.toInt`, the spec's `sext_16`. -/
def le16 (s : State) (off : Nat) : Half :=
  (s.rawV off).setWidth 16 ||| (s.rawV (off + 1)).setWidth 16 <<< 8

/-- `x + 1`, exact, in a 17-bit signed register (R16). -/
def succExact (x : Half) : BitVec 17 := BitVec.ofInt 17 (x.toInt + 1)

/-- `WIDTH * HEIGHT`, exact (R16). -/
def pixelProduct (s : State) : Int := s.widthV.toInt * s.heightV.toInt

/-- `END = LEN - 768`: offset of the first palette byte, one past the last compressed byte (R11, R35). -/
def endOff (s : State) : Nat := s.lenV.toNat - Config.palSize

/-- Offset of the palette byte with index `i`: `LEN - 768 + i` (R110). -/
def paletteOff (s : State) (i : Nat) : Nat := s.lenV.toNat - Config.palSize + i

/-- The truncating quantisation of a channel byte, `v / 8` (R15, R181). -/
def quantise (v : Byte) : Byte := v / Config.qDiv

/-- The index of the pixel at column `x`, row `y`: `y * WIDTH + x` (R38, R79). -/
def pixelIndex (s : State) (x y : Nat) : Nat := y * s.widthV.toInt.toNat + x

/-- The palette entry `k`: the triple `(R, G, B)` at `PAL[3k]`, `PAL[3k+1]`, `PAL[3k+2]` (R39, R79). -/
def paletteEntry (s : State) (k : Nat) : Byte × Byte × Byte := (s.palV (3 * k), s.palV (3 * k + 1), s.palV (3 * k + 2))

/-- The pixel word of two consecutive pixel bytes, `low | (high << 8)` (R211). -/
def packPixels (lo hi : Byte) : Half := lo.setWidth 16 ||| hi.setWidth 16 <<< 8

/-- The 5-5-5 colour word, `R | (G << 5) | (B << 10)` (R212). -/
def packColour (rgb : Byte × Byte × Byte) : Half :=
  rgb.1.setWidth 16 ||| rgb.2.1.setWidth 16 <<< 5 ||| rgb.2.2.setWidth 16 <<< 10

end Sys2Proof.Machine
end

