-- ==== Sys2Proof/Machine/Encoder.lean ====
section
/-! DEFINITION. The boundary to the downstream Encoder (spec/44_encoder_boundary.md): the two packing functions over
CORE's outputs in `DONE` (R210). They change nothing of CORE; the word goes to HOST. -/

namespace Sys2Proof.Machine

/-- `PACK.PIX` (R211): the word of pixels `2j` and `2j + 1`. Where the spec defines no word (an unpaired last pixel,
N9; no outputs) the word is free (log 15). -/
def execPackPix (j : Nat) (s : State) : Result :=
  .next (if s.stage = .done ∧ 2 * j + 1 < s.pixcntV.toNat then
      respond (.word (packPixels (s.pixV (2 * j)) (s.pixV (2 * j + 1)))) s
    else respondFree (.word (Config.undefinedWord s.draws)) s)

/-- `PACK.PAL` (R212): the colour word of palette entry `k`, 0 to 255; a free word where the spec defines none
(log 15). -/
def execPackPal (k : Nat) (s : State) : Result :=
  .next (if s.stage = .done ∧ k < Config.palEntries then
      respond (.word (packColour (paletteEntry s k))) s
    else respondFree (.word (Config.undefinedWord s.draws)) s)

end Sys2Proof.Machine
end

