-- ==== Sys2Proof/Machine/Header.lean ====
section
/-! DEFINITION. The Header Parser (spec/40_header_parser.md): the `HDR` step and its three operations `HDR.LEN`,
`HDR.UNPACK`, `HDR.CHECK`. No other header byte is read (R134). -/

namespace Sys2Proof.Machine

/-- `HDR.LEN` (R131): `LEN < 128` raises `TruncatedFile`; no byte of `RAW` is read. -/
def hdrLenStep (s : State) : State :=
  if s.lenV.toNat < Config.hdrSize then raise .truncatedFile s else s

/-- `HDR.UNPACK` (R132): the three relevant fields are latched and the two dimensions derived. -/
def unpackStep (p : Config.Params) (s : State) : State :=
  { s with
    bpp := some (s.rawV Config.offBpp)
    xmax := some (le16 s p.offXmax)
    ymax := some (le16 s p.offYmax)
    width := some (succExact (le16 s p.offXmax))
    height := some (succExact (le16 s p.offYmax)) }

/-- `HDR.CHECK` (R133, R135): a bit depth other than 8 raises `UnsupportedFormat`; else `STATE <- OPEN`. -/
def hdrCheckStep (s : State) : State :=
  if s.bppV ≠ Config.bppOk then raise .unsupportedFormat s else { s with stage := .opening }

/-- The whole step (R130): the three operations in order, ending at the first fault. -/
def hdrStep (p : Config.Params) (s : State) : State :=
  if (hdrLenStep s).stage = .fault then hdrLenStep s
  else hdrCheckStep (unpackStep p (hdrLenStep s))

/-- `HDR` (R130). -/
def execHdr (s : State) : Result := whenEnabled "HDR" (s.stage = .hdr) (hdrStep Config.params s)
/-- `HDR.LEN` alone, the first operation of the step (R131; log 12). -/
def execHdrLen (s : State) : Result := whenEnabled "HDR.LEN" (s.stage = .hdr) (hdrLenStep s)
/-- `HDR.UNPACK` alone, the second operation of the step (R132; log 12). -/
def execHdrUnpack (s : State) : Result :=
  whenEnabled "HDR.UNPACK" (s.stage = .hdr) (unpackStep Config.params s)
/-- `HDR.CHECK` alone, the third operation of the step (R133; log 12). -/
def execHdrCheck (s : State) : Result := whenEnabled "HDR.CHECK" (s.stage = .hdr) (hdrCheckStep s)

end Sys2Proof.Machine
end

