-- ==== Sys2Proof/Machine/Flags.lean ====
section
/-! DEFINITION. The status flags (R36), which are functions of `STATE`, and the numeric codes of `STATE` and `ERR`
(R21, R22). CORE has no condition code and no operation of CORE reads a flag. -/

namespace Sys2Proof.Machine

/-- `BUSY`: `STATE` in HDR, OPEN, RLE, PAL (R36). -/
def Stage.busy : Stage → Bool
  | .idle => false
  | .hdr => true
  | .opening => true
  | .rle => true
  | .pal => true
  | .done => false
  | .fault => false

/-- The numeric encoding of `STATE` (R21). -/
def Stage.code : Stage → BitVec 3
  | .idle => 0
  | .hdr => 1
  | .opening => 2
  | .rle => 3
  | .pal => 4
  | .done => 5
  | .fault => 6

/-- The numeric fault code of `ERR` (R22, R221). -/
def ErrKind.code : ErrKind → BitVec 3
  | .none => 0
  | .unsupportedFormat => 1
  | .truncatedFile => 2
  | .corruptData => 3
  | .allocationFailure => 4

/-- The flag `BUSY` of the state (R36). -/
def State.busyFlag (s : State) : Bool := s.stage.busy
/-- The flag `DONE` of the state (R36). -/
def State.doneFlag (s : State) : Bool := s.stage == .done
/-- The flag `FAULT` of the state (R36). -/
def State.faultFlag (s : State) : Bool := s.stage == .fault

/-- What `READ_STATUS` returns (R194). -/
def statusOf (s : State) : Response := .status s.stage s.err s.busyFlag s.doneFlag s.faultFlag

/-- What `READ_HDR` returns in `DONE` (R194). -/
def hdrOf (s : State) : HdrView where
  bpp := s.bppV
  xmax := s.xmaxV
  ymax := s.ymaxV
  width := s.widthV
  height := s.heightV
  pixcnt := s.pixcntV

/-- What the `n`-th unspecified `READ_HDR` returns: six free values (R196, U5). -/
def hdrFree (n : Nat) : HdrView where
  bpp := Config.hostRead 8 .bpp n
  xmax := Config.hostRead 16 .xmax n
  ymax := Config.hostRead 16 .ymax n
  width := Config.hostRead 17 .width n
  height := Config.hostRead 17 .height n
  pixcnt := Config.hostRead 31 .pixcnt n

end Sys2Proof.Machine
end

