-- ==== Sys2Proof/Machine/HostMoves.lean ====
section
/-! DEFINITION. HOST's moves (spec/43_sequencer_and_commands.md R190 to R196). A write or command issued in the wrong
state, or with an index beyond `RAW_CAP`, is ignored: no state changes and no fault is raised; a read issued outside
`DONE` or with an index out of range returns an unspecified value (R196). -/

namespace Sys2Proof.Machine

/-- `START` in `IDLE` (R192): a file that does not fit `RAW` raises `AllocationFailure`; else `STATE <- HDR`. -/
def startStep (p : Config.Params) (s : State) : State :=
  if p.rawCap < s.lenV.toNat then raise .allocationFailure s else { s with stage := .hdr }

/-- `START` (R192, R196). It is not refused where `LEN` or `RAW` cells hold no value (logs 2 and 3). -/
def execStart (s : State) : Result :=
  .next (if s.stage = .idle then startStep Config.params s else s)

/-- `CLEAR` (R193, R196). -/
def execClear (s : State) : Result :=
  .next (if s.stage = .done ∨ s.stage = .fault then release s else s)

/-- `WRITE_LEN(n)` (R191, R196). -/
def execWriteLen (n : BitVec 32) (s : State) : Result :=
  .next (if s.stage = .idle then { s with len := some n } else s)

/-- `WRITE_RAW(a, b)` with the capacity as a parameter (R191, R196). -/
def writeRawStep (p : Config.Params) (a : Nat) (b : Byte) (s : State) : State :=
  if s.stage = .idle ∧ a < p.rawCap then { s with raw := s.raw.write a b } else s

/-- `WRITE_RAW(a, b)` (R191, R196). -/
def execWriteRaw (a : Nat) (b : Byte) (s : State) : Result := .next (writeRawStep Config.params a b s)

/-- `READ_STATUS` (R194): legal in every state. -/
def execReadStatus (s : State) : Result := .next (respond (statusOf s) s)

/-- `READ_HDR` (R194, R196). -/
def execReadHdr (s : State) : Result :=
  .next (if s.stage = .done then respond (.hdr (hdrOf s)) s else respondFree (.hdr (hdrFree s.draws)) s)

/-- `READ_PIX(a)` (R194, R196). -/
def execReadPix (a : Nat) (s : State) : Result :=
  .next (if s.stage = .done ∧ a < s.pixcntV.toNat then respond (.pix (s.pixV a)) s
    else respondFree (.pix (Config.hostRead 8 (.pix a) s.draws)) s)

/-- `READ_PAL(a)` (R194, R196). -/
def execReadPal (a : Nat) (s : State) : Result :=
  .next (if s.stage = .done ∧ a < Config.palSize then respond (.pal (s.palV a)) s
    else respondFree (.pal (Config.hostRead 8 (.pal a) s.draws)) s)

end Sys2Proof.Machine
end

