-- ==== Sys2Proof/Machine/Palette.lean ====
section
/-! DEFINITION. The Palette Quantizer (spec/42_palette_quantizer.md): `PAL.Q` and `PAL.CLOSE`. It raises no fault
(R180). -/

namespace Sys2Proof.Machine

/-- `PAL.Q` (R181): `PAL[pi] <- v / 8`, `pi <- pi + 1`. -/
def palStep (v : Byte) (s : State) : State :=
  { s with pal := s.pal.write s.piV.toNat (quantise v), pi := some (s.piV + 1) }

/-- `PAL.Q` (R181). -/
def execPalQ (v : Byte) (s : State) : Result :=
  whenEnabled "PAL.Q" (s.stage = .pal ∧ s.piV.toNat < Config.palSize) (palStep v s)

/-- `PAL.CLOSE` (R182): `STATE <- DONE`; `pi` holds a value in `PAL` only (R20; log 9). -/
def palCloseStep (s : State) : State := { s with stage := .done, pi := none }

/-- `PAL.CLOSE` (R182). -/
def execPalClose (s : State) : Result :=
  whenEnabled "PAL.CLOSE" (s.stage = .pal ∧ s.piV.toNat = Config.palSize) (palCloseStep s)

end Sys2Proof.Machine
end

