-- ==== Sys2Proof/Machine/Rle.lean ====
section
/-! DEFINITION. The RLE Decoder (spec/41_rle_decoder.md): `LIT` in its four rows, `RUN`, `RUN.REP`, `RLE.OPEN`,
`RLE.CLOSE`. -/

namespace Sys2Proof.Machine

/-- The select condition of a token fetch: `STATE = RLE`, `rc = 0`, `rp < END` (R154). -/
abbrev fetchEnabled (s : State) : Prop := s.stage = .rle ∧ s.rcV = 0 ∧ s.rpV.toNat < endOff s

/-- Pixel `v` goes to `PIX[wp]`, and `wp` moves on by one (R25, R156, R159). -/
def emit (v : Byte) (s : State) : State :=
  { s with pix := s.pix.write s.wpV.toNat v, wp := some (s.wpV + 1) }

/-- `PIX` is full: `wp >= PIXCNT` (R156, R159). -/
abbrev pixFull (s : State) : Prop := s.pixcntV.toNat ≤ s.wpV.toNat

/-- `LIT v` (R156): a full buffer raises `CorruptData` with nothing written; else one pixel is written and one input
byte consumed. -/
def litStep (v : Byte) (s : State) : State :=
  if pixFull s then raise .corruptData s
  else { emit v s with rp := some (s.rpV + 1) }

/-- `LIT.00` (R156). -/
def execLit00 (v : Byte) (s : State) : Result := whenEnabled "LIT.00" (fetchEnabled s) (litStep v s)
/-- `LIT.01` (R156). -/
def execLit01 (v : Byte) (s : State) : Result := whenEnabled "LIT.01" (fetchEnabled s) (litStep v s)
/-- `LIT.10` (R156). -/
def execLit10 (v : Byte) (s : State) : Result := whenEnabled "LIT.10" (fetchEnabled s) (litStep v s)
/-- `LIT.C0`: the literal 192 (R106, R156). -/
def execLitC0 (s : State) : Result := whenEnabled "LIT.C0" (fetchEnabled s) (litStep 192 s)

/-- `RUN n, v` (R157): a marker in the region's last byte raises `TruncatedFile`, before any capacity test; else
`rc <- n`, `rv <- v`, and two input bytes are consumed. -/
def runStep (n : BitVec 6) (v : Byte) (s : State) : State :=
  if endOff s ≤ s.rpV.toNat + 1 then raise .truncatedFile s
  else { s with rc := some n, rv := some v, rp := some (s.rpV + 2) }

/-- `RUN` (R157). -/
def execRun (n : BitVec 6) (v : Byte) (s : State) : Result :=
  whenEnabled "RUN" (fetchEnabled s) (runStep n v s)

/-- `RUN` at a marker whose value byte is not in the region: `TruncatedFile`, and no palette byte is read (R157). -/
def danglingRun (s : State) : Result := .next (raise .truncatedFile s)

/-- `RUN.REP` (R159): a full buffer raises `CorruptData`; else one copy of `rv` is written and `rc` counts down. `rv`
holds a value only while `rc > 0` (R20, R27; log 9). -/
def runRepStep (s : State) : State :=
  if pixFull s then raise .corruptData s
  else
    { emit s.rvV s with
      rc := some (s.rcV - 1)
      rv := if s.rcV = 1 then none else s.rv }

/-- `RUN.REP` (R159); it has priority over any token fetch (R154). -/
def execRunRep (s : State) : Result :=
  whenEnabled "RUN.REP" (s.stage = .rle ∧ s.rcV ≠ 0) (runRepStep s)

/-- `RLE.OPEN` (R150 to R153): the length check, the sizing of the pixel buffer, then the initialisation. -/
def openStep (p : Config.Params) (s : State) : State :=
  if s.lenV.toNat < Config.minLen then raise .truncatedFile s
  else if s.widthV.toInt < 1 ∨ s.heightV.toInt < 1 then raise .allocationFailure s
  else if (p.pixCap : Int) < pixelProduct s then raise .allocationFailure s
  else
    { s with
      pixcnt := some (BitVec.ofInt 31 (pixelProduct s))
      rp := some 128, wp := some 0, rc := some 0
      stage := .rle }

/-- `RLE.OPEN` (R150). -/
def execRleOpen (s : State) : Result :=
  whenEnabled "RLE.OPEN" (s.stage = .opening) (openStep Config.params s)

/-- `RLE.CLOSE` (R158): an under-filled buffer raises `TruncatedFile`; else the PAL stage begins with `pi = 0`. `rp`,
`rc` and `rv` hold a value in `RLE` only (R20; log 9). -/
def closeStep (s : State) : State :=
  if s.wpV.toNat < s.pixcntV.toNat then raise .truncatedFile s
  else { s with pi := some 0, stage := .pal, rp := none, rc := none, rv := none }

/-- `RLE.CLOSE` (R158). -/
def execRleClose (s : State) : Result :=
  whenEnabled "RLE.CLOSE" (s.stage = .rle ∧ s.rcV = 0 ∧ s.rpV.toNat = endOff s) (closeStep s)

end Sys2Proof.Machine
end

