-- ==== Sys2Proof/Machine/Dispatch.lean ====
section
/-! DEFINITION. The dispatch: one arm per constructor of `Instr`. -/

namespace Sys2Proof.Machine

def exec (i : Instr) (s : State) : Host.Outcome State Fault Refusal :=
  match i with
  -- the RLE Decoder's tokens and operations
  | .lit00 v => Sys2Proof.Machine.execLit00 v s
  | .lit01 v => Sys2Proof.Machine.execLit01 v s
  | .lit10 v => Sys2Proof.Machine.execLit10 v s
  | .litC0 => Sys2Proof.Machine.execLitC0 s
  | .run n v => Sys2Proof.Machine.execRun n v s
  | .runRep => Sys2Proof.Machine.execRunRep s
  | .rleOpen => Sys2Proof.Machine.execRleOpen s
  | .rleClose => Sys2Proof.Machine.execRleClose s
  -- the Header Parser
  | .hdr => Sys2Proof.Machine.execHdr s
  | .hdrLen => Sys2Proof.Machine.execHdrLen s
  | .hdrUnpack => Sys2Proof.Machine.execHdrUnpack s
  | .hdrCheck => Sys2Proof.Machine.execHdrCheck s
  -- the Palette Quantizer
  | .palQ v => Sys2Proof.Machine.execPalQ v s
  | .palClose => Sys2Proof.Machine.execPalClose s
  -- HOST's moves
  | .start => Sys2Proof.Machine.execStart s
  | .clear => Sys2Proof.Machine.execClear s
  | .writeLen n => Sys2Proof.Machine.execWriteLen n s
  | .writeRaw a b => Sys2Proof.Machine.execWriteRaw a b s
  | .readStatus => Sys2Proof.Machine.execReadStatus s
  | .readHdr => Sys2Proof.Machine.execReadHdr s
  | .readPix a => Sys2Proof.Machine.execReadPix a s
  | .readPal a => Sys2Proof.Machine.execReadPal a s
  -- the Encoder's boundary
  | .packPix j => Sys2Proof.Machine.execPackPix j s
  | .packPal k => Sys2Proof.Machine.execPackPal k s

end Sys2Proof.Machine
end

