-- ==== Sys2Proof/WellFormed.lean ====
section
/-! DEFINITION. Which instructions are well formed: the operand ranges the spec gives a token or a move by itself,
whatever the state (a range that depends on the state or on a parameter is the meaning's affair). -/

namespace Sys2Proof

/-- The operand ranges of R104 (tokens), R190 (`READ_PAL`) and R212 (`PACK.PAL`). -/
def Instr.wf : Instr → Bool
  | .lit00 v => decide (v.toNat < 64)
  | .lit01 v => decide (64 ≤ v.toNat ∧ v.toNat < 128)
  | .lit10 v => decide (128 ≤ v.toNat ∧ v.toNat < 192)
  | .litC0 => true
  | .run n _ => decide (n ≠ 0)
  | .runRep => true
  | .rleOpen => true
  | .rleClose => true
  | .hdr => true
  | .hdrLen => true
  | .hdrUnpack => true
  | .hdrCheck => true
  | .palQ _ => true
  | .palClose => true
  | .start => true
  | .clear => true
  | .writeLen _ => true
  | .writeRaw _ _ => true
  | .readStatus => true
  | .readHdr => true
  | .readPix _ => true
  | .readPal a => decide (a < 768)
  | .packPix _ => true
  | .packPal k => decide (k < 256)

end Sys2Proof
end

