-- ==== Sys2Proof/Decode.lean ====
section
/-! DEFINITION. Decoding of the bytes of the compressed region and of the palette block, and the encoder, both written
from spec/30_encoding.md (R104 to R110) and the rows of the opcode table. -/

namespace Sys2Proof

/-- A row of the opcode table with a bit pattern on the first byte (R115). -/
structure TokenRow where
  mask : Byte
  pattern : Byte
  deriving DecidableEq, Repr

/-- `LIT.00`: 00vvvvvv. -/
def rowLit00 : TokenRow := ⟨0xC0, 0x00⟩
/-- `LIT.01`: 01vvvvvv. -/
def rowLit01 : TokenRow := ⟨0xC0, 0x40⟩
/-- `LIT.10`: 10vvvvvv. -/
def rowLit10 : TokenRow := ⟨0xC0, 0x80⟩
/-- `LIT.C0`: 11000000, tested before `RUN`. -/
def rowLitC0 : TokenRow := ⟨0xFF, 0xC0⟩
/-- `RUN`: 11nnnnnn vvvvvvvv. -/
def rowRun : TokenRow := ⟨0xC0, 0xC0⟩
/-- `PAL.Q`: every byte (mask 0). -/
def rowPalQ : TokenRow := ⟨0x00, 0x00⟩

/-- The first byte `b` matches the row. -/
def TokenRow.hit (r : TokenRow) (b : Byte) : Bool := b &&& r.mask == r.pattern

/-- The run length of a marker byte: `n = b - 192 = b[5:0]` (R14, R107). -/
def runCount (b : Byte) : BitVec 6 := (b - Config.runBase).setWidth 6

/-- The marker byte of a run of length `n`: `192 + n` (R104). -/
def runMarker (n : BitVec 6) : Byte := Config.runBase + n.setWidth 8

/-- One token of the compressed region, and the bytes after it; the rows are tested in the table's decode order, so
`LIT.C0` stands before `RUN` (R105, R106, R115). -/
def decodeToken : List Byte → Except Reject (Instr × List Byte)
  | [] => .error .noByte
  | b :: rest =>
    if rowLit00.hit b then .ok (.lit00 b, rest)
    else if rowLit01.hit b then .ok (.lit01 b, rest)
    else if rowLit10.hit b then .ok (.lit10 b, rest)
    else if rowLitC0.hit b then .ok (.litC0, rest)
    else
      match rest with
      | [] => .error (.danglingMarker (runCount b))
      | v :: rest' => .ok (.run (runCount b) v, rest')

/-- One channel byte of the palette block: every value is legal (R110). -/
def decodePalette : List Byte → Except Reject (Instr × List Byte)
  | [] => .error .noByte
  | b :: rest => .ok (.palQ b, rest)

/-- Decoding by region (R100): total, with a named rejection. -/
def decode : Region → List Byte → Except Reject (Instr × List Byte)
  | .compressed, bs => decodeToken bs
  | .palette, bs => decodePalette bs

/-- The region whose bytes select the instruction; `none` for an operation that `STATE` or HOST selects (R115). -/
def Instr.region : Instr → Option Region
  | .lit00 _ => some .compressed
  | .lit01 _ => some .compressed
  | .lit10 _ => some .compressed
  | .litC0 => some .compressed
  | .run _ _ => some .compressed
  | .palQ _ => some .palette
  | .runRep => none
  | .rleOpen => none
  | .rleClose => none
  | .hdr => none
  | .hdrLen => none
  | .hdrUnpack => none
  | .hdrCheck => none
  | .palClose => none
  | .start => none
  | .clear => none
  | .writeLen _ => none
  | .writeRaw _ _ => none
  | .readStatus => none
  | .readHdr => none
  | .readPix _ => none
  | .readPal _ => none
  | .packPix _ => none
  | .packPal _ => none

/-- The table row whose pattern the instruction's first byte carries; `none` where the row's match is null. -/
def Instr.row : Instr → Option TokenRow
  | .lit00 _ => some rowLit00
  | .lit01 _ => some rowLit01
  | .lit10 _ => some rowLit10
  | .litC0 => some rowLitC0
  | .run _ _ => some rowRun
  | .palQ _ => some rowPalQ
  | .runRep => none
  | .rleOpen => none
  | .rleClose => none
  | .hdr => none
  | .hdrLen => none
  | .hdrUnpack => none
  | .hdrCheck => none
  | .palClose => none
  | .start => none
  | .clear => none
  | .writeLen _ => none
  | .writeRaw _ _ => none
  | .readStatus => none
  | .readHdr => none
  | .readPix _ => none
  | .readPal _ => none
  | .packPix _ => none
  | .packPal _ => none

/-- The bytes of an instruction (R104, R110, R113); an operation that no byte selects has none. -/
def encode : Instr → List Byte
  | .lit00 v => [v]
  | .lit01 v => [v]
  | .lit10 v => [v]
  | .litC0 => [0xC0]
  | .run n v => [runMarker n, v]
  | .palQ v => [v]
  | .runRep => []
  | .rleOpen => []
  | .rleClose => []
  | .hdr => []
  | .hdrLen => []
  | .hdrUnpack => []
  | .hdrCheck => []
  | .palClose => []
  | .start => []
  | .clear => []
  | .writeLen _ => []
  | .writeRaw _ _ => []
  | .readStatus => []
  | .readHdr => []
  | .readPix _ => []
  | .readPal _ => []
  | .packPix _ => []
  | .packPal _ => []

/-! The spec's notation for writing inputs (R113, R114); CORE knows nothing of it. -/

/-- `LIT v`, in the table's row that holds the byte (R113, R115). -/
def literal (v : Byte) : Instr :=
  if rowLit00.hit v then .lit00 v
  else if rowLit01.hit v then .lit01 v
  else if rowLit10.hit v then .lit10 v
  else .litC0

/-- The pseudo-token `PIX v`: `LIT v` when `v <= 192`, else `RUN 1, v` (R114). -/
def pixToken (v : Byte) : Instr := if v.toNat ≤ 192 then literal v else .run 1 v

/-- The pseudo-token `REP m, v`: copies of `RUN 63, v`, then the rest (R114). -/
def repTokens (m : Nat) (v : Byte) : List Instr :=
  List.replicate (m / 63) (.run 63 v) ++ (if m % 63 = 0 then [] else [.run (BitVec.ofNat 6 (m % 63)) v])

/-- The bytes of a token sequence, laid end to end (R104). -/
def encodeAll (ts : List Instr) : List Byte := ts.flatMap encode

/-- The low `nbits` bits of `w` laid out as CORE's input stores a token: byte `k` is bits `8k+7 .. 8k`, the first byte
at the lowest offset, two bytes (the longest token), the bits above `nbits` zero. -/
def tableBytes (nbits w : Nat) : List Byte :=
  let x := w % 2 ^ nbits
  [BitVec.ofNat 8 x, BitVec.ofNat 8 (x / 256)]

/-- What the decoder reads in the compressed region from the bits of an opcode-table word. A row with no bits is
selected by `STATE` or by HOST and no word of it exists. A byte means `PAL.Q` only in the palette region (R100), so
`PAL.Q`'s word reads as the literal or run it would be in the compressed region (log 20). -/
def decodeTableWord (nbits w : Nat) : Option Instr :=
  if nbits = 0 then none
  else
    match decode .compressed (tableBytes nbits w) with
    | .ok (i, _) => some i
    | .error _ => none

end Sys2Proof
end

