-- ==== Sys2Proof/Machine/Fetch.lean ====
section
/-! DEFINITION. Which operation CORE takes next (R154, R181, R182, R197), with the bytes it reads to decide (R70), and
the placing of a token where the next turn fetches it. -/

namespace Sys2Proof.Machine

/-- What CORE's turn finds. -/
inductive Selected where
  /-- The one enabled operation. -/
  | op (i : Instr)
  /-- A token fetch whose bytes the decoder rejects. -/
  | reject (r : Reject)
  /-- No operation is enabled and none should be: `IDLE`, `DONE`, `FAULT` (R245). -/
  | rest
  /-- CORE is BUSY with nothing enabled: cannot arise (R24, R28; log 11). -/
  | stuck
  deriving DecidableEq, Repr

/-- The bytes at `rp` that lie in the compressed region, at most the longest token's two (R73, R157). -/
def fetchBytes (s : State) : List Byte :=
  if s.rpV.toNat + 1 < endOff s then [s.rawV s.rpV.toNat, s.rawV (s.rpV.toNat + 1)]
  else if s.rpV.toNat < endOff s then [s.rawV s.rpV.toNat]
  else []

/-- The palette byte at index `pi` (R181). -/
def paletteBytes (s : State) : List Byte := [s.rawV (paletteOff s s.piV.toNat)]

/-- A decoded operation, or the rejection. -/
def selectDecoded (d : Except Reject (Instr × List Byte)) : Selected :=
  match d with
  | .ok (i, _) => .op i
  | .error r => .reject r

/-- The operation of the RLE stage, by R154's table. -/
def selectRle (s : State) : Selected :=
  if s.rcV ≠ 0 then .op .runRep
  else if s.rpV.toNat < endOff s then selectDecoded (decode .compressed (fetchBytes s))
  else if s.rpV.toNat = endOff s then .op .rleClose
  else .stuck

/-- The operation of the PAL stage (R181, R182). -/
def selectPal (s : State) : Selected :=
  if s.piV.toNat < Config.palSize then selectDecoded (decode .palette (paletteBytes s))
  else if s.piV.toNat = Config.palSize then .op .palClose
  else .stuck

/-- CORE's enabled operation (R197). -/
def selectCore (s : State) : Selected :=
  match s.stage with
  | .idle => .rest
  | .hdr => .op .hdr
  | .opening => .op .rleOpen
  | .rle => selectRle s
  | .pal => selectPal s
  | .done => .rest
  | .fault => .rest

/-- What a rejected token fetch does: a dangling marker is the `RUN` fetch that raises `TruncatedFile` (R157); a fetch
finds at least one byte, so the other rejection cannot arise. -/
def rejected (r : Reject) (s : State) : Result :=
  match r with
  | .danglingMarker _ => danglingRun s
  | .noByte => .fault .noOperationEnabled

/-- The machine with the two bytes of a token as the whole compressed region of a 1-pixel image, CORE's turn next and
about to fetch it. It stands for HOST's loading of the file and the `HDR` and `RLE.OPEN` steps (log 14). -/
def placeToken (s : State) (bs : List Byte) : State :=
  { s with
    inputs := [], stage := .rle, len := some 898
    rp := some 128, wp := some 0, rc := some 0, rv := none, pixcnt := some 1
    raw := (s.raw.write 128 (bs.getD 0 0)).write 129 (bs.getD 1 0) }

end Sys2Proof.Machine
end

