-- ==== Sys2Proof/Machine/Step.lean ====
section
/-! DEFINITION. One step of the machine: the next turn of HOST's schedule, or CORE's turn when the schedule is used up
(R197; log 6). -/

namespace Sys2Proof.Machine

/-- CORE's turn: it takes its one enabled operation; where none is enabled it does nothing (R245; log 7). -/
def coreTurn (s : State) : Host.Outcome State Fault Refusal :=
  match selectCore s with
  | .op i => exec i s
  | .reject r => rejected r s
  | .rest => .next s
  | .stuck => .fault .noOperationEnabled

/-- One turn of the agent that `e` names. -/
def turn (e : Event) (s : State) : Host.Outcome State Fault Refusal :=
  match e with
  | .core => coreTurn s
  | .host m => exec m.toInstr s
  | .reset => .next (resetEvent s)

/-- One step. -/
def step (s : State) : Host.Outcome State Fault Refusal :=
  match s.inputs with
  | [] => coreTurn s
  | e :: es => turn e { s with inputs := es }

/-- `s` with the instruction of an opcode-table word where the next step fetches it (log 14). -/
def State.withFetchWord (s : State) (nbits w : Nat) : State :=
  placeToken s (tableBytes nbits w)

end Sys2Proof.Machine
end

