-- ==== Sys2Proof/Machine/BigStep.lean ====
section
/-! DEFINITION. The spec's own big-step functions: the RLE stage (R160), the palette stage (R183) and the whole run
(R201), over the input's bytes and length. They are what the step machine is held against; `step` does not use
them. -/

namespace Sys2Proof.Machine

/-- `decode(S, out)` of R160 with `cnt` pixels to produce. -/
def decodeStream (cnt : Nat) : List Byte → List Byte → Except ErrKind (List Byte)
  | [], out => if out.length = cnt then .ok out else .error .truncatedFile
  | [b], out =>
    if b.toNat ≤ 192 then
      if cnt ≤ out.length then .error .corruptData else decodeStream cnt [] (out ++ [b])
    else .error .truncatedFile
  | b :: v :: rest, out =>
    if b.toNat ≤ 192 then
      if cnt ≤ out.length then .error .corruptData else decodeStream cnt (v :: rest) (out ++ [b])
    else if cnt < out.length + (b.toNat - 192) then .error .corruptData
    else decodeStream cnt rest (out ++ List.replicate (b.toNat - 192) v)

/-- The `n` input bytes from offset `a` on. -/
def rawSlice (raw : Nat → Byte) (a n : Nat) : List Byte := (List.range n).map fun i => raw (a + i)

/-- `quantize(RAW, LEN)` of R183 as a stand-alone function, with the check that R180 gives such a function: a file
shorter than the palette block is a `TruncatedFile`. -/
def quantizeAll (raw : Nat → Byte) (len : Nat) : Except ErrKind (List Byte) :=
  if len < Config.palSize then .error .truncatedFile
  else .ok ((rawSlice raw (len - Config.palSize) Config.palSize).map quantise)

/-- The result of a run (R201). -/
inductive RunResult where
  | fault (k : ErrKind)
  | done (h : HdrView) (pix pal : List Byte)
  deriving DecidableEq, Repr

/-- `le16(o) = RAW[o] | (RAW[o+1] << 8)` of R201. -/
def rawLe16 (raw : Nat → Byte) (o : Nat) : Half := (raw o).setWidth 16 ||| (raw (o + 1)).setWidth 16 <<< 8

/-- `run(RAW, LEN)` of R201. The check of `quantize` (R180) never fails here: `LEN >= 896` was tested before it. -/
def runResult (p : Config.Params) (raw : Nat → Byte) (len : Nat) : RunResult :=
  let w := succExact (rawLe16 raw p.offXmax)
  let h := succExact (rawLe16 raw p.offYmax)
  if p.rawCap < len then .fault .allocationFailure
  else if len < Config.hdrSize then .fault .truncatedFile
  else if raw Config.offBpp ≠ Config.bppOk then .fault .unsupportedFormat
  else if len < Config.minLen then .fault .truncatedFile
  else if w.toInt < 1 ∨ h.toInt < 1 ∨ (p.pixCap : Int) < w.toInt * h.toInt then .fault .allocationFailure
  else
    match decodeStream (w.toInt * h.toInt).toNat (rawSlice raw Config.hdrSize (len - Config.minLen)) [] with
    | .error k => .fault k
    | .ok out =>
      match quantizeAll raw len with
      | .error k => .fault k
      | .ok pal =>
        .done ⟨raw Config.offBpp, rawLe16 raw p.offXmax, rawLe16 raw p.offYmax, w, h,
          BitVec.ofInt 31 (w.toInt * h.toInt)⟩ out pal

/-- The bound on a run's steps: `START`, `HDR`, `RLE.OPEN`, the RLE stage (R161) and the PAL stage's 769 (R198). -/
def runBound (len : Nat) : Nat :=
  3 + ((len - Config.minLen) + 63 * ((len - Config.minLen) / 2) + 1) + 769

end Sys2Proof.Machine
end

