-- ==== Sys2Proof/Safety.lean ====
section
/-! DEFINITION. What claims about CORE are stated in: the invariants of the machine, and what it means that a state
shows the result of a run. -/

namespace Sys2Proof.Machine

/-- The memories are in canonical form. -/
abbrev State.MemForm (s : State) : Prop := s.raw.wf ∧ s.pix.wf ∧ s.pal.wf

/-- R22: `ERR != None` exactly when `STATE = FAULT`. -/
abbrev State.ErrAgrees (s : State) : Prop := s.err = .none ↔ s.stage ≠ .fault

/-- `STATE` is OPEN, RLE, PAL or DONE: the header registers hold values (R20). -/
def Stage.hasHeader : Stage → Bool
  | .idle => false
  | .hdr => false
  | .opening => true
  | .rle => true
  | .pal => true
  | .done => true
  | .fault => false

/-- `STATE` is RLE, PAL or DONE: `wp` and `PIXCNT` hold values (R20). -/
def Stage.hasPixels : Stage → Bool
  | .idle => false
  | .hdr => false
  | .opening => false
  | .rle => true
  | .pal => true
  | .done => true
  | .fault => false

/-- How many cells of `PAL` hold values (R20: `0 .. pi-1` in PAL, all in DONE). -/
def State.palCount (s : State) : Nat :=
  match s.stage with
  | .idle => 0
  | .hdr => 0
  | .opening => 0
  | .rle => 0
  | .pal => s.piV.toNat
  | .done => Config.palSize
  | .fault => 0

/-- R20's column "Valid in": exactly the elements the table lists for the current `STATE` hold a value. -/
structure State.Presence (s : State) : Prop where
  rp : s.rp.isSome = (s.stage == .rle)
  wp : s.wp.isSome = s.stage.hasPixels
  rc : s.rc.isSome = (s.stage == .rle)
  rv : s.rv.isSome = (s.stage == .rle && s.rcV != 0)
  pi : s.pi.isSome = (s.stage == .pal)
  bpp : s.bpp.isSome = s.stage.hasHeader
  xmax : s.xmax.isSome = s.stage.hasHeader
  ymax : s.ymax.isSome = s.stage.hasHeader
  width : s.width.isSome = s.stage.hasHeader
  height : s.height.isSome = s.stage.hasHeader
  pixcnt : s.pixcnt.isSome = s.stage.hasPixels
  pix : s.pix.addresses = List.range (if s.stage.hasPixels then s.wpV.toNat else 0)
  pal : s.pal.addresses = List.range s.palCount

/-- The ranges and relations the spec gives the elements while they hold values (R20, R24, R25, R32 to R34, R39, R136,
R152, R198), and what the earlier tests of a run have established (R131, R151). -/
structure State.Ranges (s : State) : Prop where
  /-- Every written `RAW` cell lies in the memory (R37, R191). -/
  rawCap : ∀ c ∈ s.raw, c.1 < Config.params.rawCap
  /-- Past the `HDR` step the bit depth is 8 and the dimensions are the exact successors (R32, R33, R133). -/
  header : s.stage.hasHeader = true →
    128 ≤ s.lenV.toNat ∧ s.bppV = Config.bppOk ∧ s.widthV = succExact s.xmaxV ∧ s.heightV = succExact s.ymaxV
  /-- Past `RLE.OPEN` the buffer is sized (R34, R136, R151, R152) and `wp` is within it (R25). -/
  pixels : s.stage.hasPixels = true →
    896 ≤ s.lenV.toNat ∧ 1 ≤ s.widthV.toInt ∧ 1 ≤ s.heightV.toInt ∧
      (s.pixcntV.toNat : Int) = pixelProduct s ∧ s.pixcntV.toNat ≤ Config.params.pixCap ∧
      s.wpV.toNat ≤ s.pixcntV.toNat
  /-- In RLE the read pointer is in the region (R24). -/
  region : s.stage = .rle → 128 ≤ s.rpV.toNat ∧ s.rpV.toNat ≤ endOff s
  /-- Past `RLE.CLOSE` the buffer is full (R158). -/
  filled : s.stage = .pal ∨ s.stage = .done → s.wpV = s.pixcntV
  /-- In PAL the palette index is at most 768 (R28). -/
  index : s.stage = .pal → s.piV.toNat ≤ 768
  /-- Every written `PAL` cell is a 5-bit value (R39). -/
  channels : ∀ c ∈ s.pal, c.2.toNat ≤ 31

/-- A run in progress or completed has a file that fits the input memory (R192). -/
abbrev State.Fits (s : State) : Prop :=
  s.stage.busy = true ∨ s.stage = .done → s.lenV.toNat ≤ Config.params.rawCap

/-- The invariant of the machine. -/
structure State.Inv (s : State) : Prop where
  mem : s.MemForm
  err : s.ErrAgrees
  presence : s.Presence
  ranges : s.Ranges

/-- `k` steps of the machine, stopping at the first fault or refusal: the host's `Core.run` of this machine. -/
def steps : Nat → State → Result
  | 0, s => .next s
  | k + 1, s =>
    match step s with
    | .next t => steps k t
    | .fault r => .fault r
    | .refused r => .refused r

/-- The state shows the run result `r` (R198): in `FAULT`, `ERR`; in `DONE`, `ERR = None`, the header registers, the
pixels and the palette. -/
def State.Shows (t : State) : RunResult → Prop
  | .fault k => t.stage = .fault ∧ t.err = k
  | .done h pix pal =>
    t.stage = .done ∧ t.err = .none ∧
      t.bpp = some h.bpp ∧ t.xmax = some h.xmax ∧ t.ymax = some h.ymax ∧
      t.width = some h.width ∧ t.height = some h.height ∧ t.pixcnt = some h.pixcnt ∧
      pix.length = h.pixcnt.toNat ∧ (∀ a < h.pixcnt.toNat, t.pix.read a = pix[a]?) ∧
      pal.length = Config.palSize ∧ (∀ a < Config.palSize, t.pal.read a = pal[a]?)

/-- The state with the model's own fields other than `epoch` blanked: what CORE is made of (R20), and the epoch its
free values are of. -/
def State.coreOnly (s : State) : State := { s with inputs := [], port := none, draws := 0 }

/-- Everything that is the spec's state (R20) is the same in `s` and `t`; the model's own fields may differ. -/
structure State.SameCore (s t : State) : Prop where
  stage : t.stage = s.stage
  err : t.err = s.err
  len : t.len = s.len
  rp : t.rp = s.rp
  wp : t.wp = s.wp
  rc : t.rc = s.rc
  rv : t.rv = s.rv
  pi : t.pi = s.pi
  bpp : t.bpp = s.bpp
  xmax : t.xmax = s.xmax
  ymax : t.ymax = s.ymax
  width : t.width = s.width
  height : t.height = s.height
  pixcnt : t.pixcnt = s.pixcnt
  raw : t.raw = s.raw
  pix : t.pix = s.pix
  pal : t.pal = s.pal

end Sys2Proof.Machine
end

