-- ==== Sys2Proof/Certificates/Slice0/Obligations.lean ====
section
/-! DEFINITION. The statements for the provers. `steps k s` is `k` steps from `s`. A statement about an
operation of CORE says both what `exec` answers and, where it names the operation's select condition, that CORE's
turn takes that operation with those operands. -/

open Sys2Proof Sys2Proof.Machine

/-! ## Reset, faults and release -/

/-- R43: the reset values. `none` is the spec's "holds no value" (R44); the model's own fields are not mentioned. -/
def Obligations.ResetLeavesIdleAndNothingHeld : Prop :=
  State.reset.stage = .idle ∧ State.reset.stage.code = 0 ∧ State.reset.err = .none ∧ State.reset.err.code = 0 ∧
    State.reset.len = none ∧ (∀ a, State.reset.raw.read a = none) ∧
    State.reset.bpp = none ∧ State.reset.xmax = none ∧ State.reset.ymax = none ∧
    State.reset.width = none ∧ State.reset.height = none ∧ State.reset.pixcnt = none ∧
    State.reset.rp = none ∧ State.reset.wp = none ∧ State.reset.rc = none ∧ State.reset.rv = none ∧
    State.reset.pi = none ∧ (∀ a, State.reset.pix.read a = none) ∧ (∀ a, State.reset.pal.read a = none)

/-- R260: the reset event in any state gives `STATE = IDLE`, `ERR = None` and no other element holds a value; only the
model's own fields outlive it, and a new epoch of free values begins (logs 2 and 21, DESIGN CHOICE). That the event is a
turn of HOST's schedule is the model's choice (log 6, DESIGN CHOICE). -/
def Obligations.ResetEventAbandonsEverything : Prop :=
  ∀ (s : State) (es : List Event), s.inputs = .reset :: es →
    step s = .next { State.reset with inputs := es, port := s.port, epoch := s.epoch + 1, draws := s.draws }

/-- R226: what `raise K` writes, what loses its value, and what it leaves: `LEN`, `RAW` (and the model's own fields);
and CORE has no enabled step from there, while `READ_STATUS` answers the kind. Two points are the model's, not R226's:
that CORE's turn, with no step enabled, answers the same state (log 7, DEDUCED from R245), and that what `READ_STATUS`
returns stands in the field `port` (log 5, DESIGN CHOICE). `k` also ranges over `ErrKind.none`, which is none of R226's
four kinds: no operation raises it, and of it the statement says only what the function `raise` does. -/
def Obligations.RaiseTakesTheFault : Prop :=
  ∀ (k : ErrKind) (s : State),
    raise k s =
      { State.reset with
        stage := .fault, err := k, len := s.len, raw := s.raw
        inputs := s.inputs, port := s.port, epoch := s.epoch, draws := s.draws } ∧
    selectCore (raise k s) = .rest ∧ coreTurn (raise k s) = .next (raise k s) ∧
    exec .readStatus (raise k s) = .next { raise k s with port := some (.status .fault k false false true) }

/-- R231: in `FAULT` no step of CORE and no other move of HOST leaves `FAULT` or changes `ERR`; `CLEAR` and reset leave
it. Two points are the model's: that CORE's turn there answers the very same state (log 7, DEDUCED from R245), and that
HOST's moves out of place are moves at all (log 3, DESIGN CHOICE). -/
def Obligations.FaultStaysUntilClearOrReset : Prop :=
  ∀ s : State, s.stage = .fault →
    (∀ (t : State) (e : Event), e ≠ .host .clear → e ≠ .reset → turn e s = .next t →
      t.stage = .fault ∧ t.err = s.err ∧ (e = .core → t = s)) ∧
    (∃ t, turn (.host .clear) s = .next t ∧ t.stage = .idle ∧ t.err = .none) ∧
    (∃ t, turn .reset s = .next t ∧ t.stage = .idle ∧ t.err = .none)

/-! ## The Header Parser -/

/-- R130 (with R131, R133, R135): the whole `HDR` step, which CORE takes whenever `STATE = HDR`. -/
def Obligations.HeaderStepParsesOrFaults : Prop :=
  ∀ s : State, s.stage = .hdr →
    coreTurn s = exec .hdr s ∧
    (s.lenV.toNat < 128 → exec .hdr s = .next (raise .truncatedFile s)) ∧
    (128 ≤ s.lenV.toNat → s.rawV 3 ≠ 8 → exec .hdr s = .next (raise .unsupportedFormat s)) ∧
    (128 ≤ s.lenV.toNat → s.rawV 3 = 8 →
      exec .hdr s =
        .next { s with
          bpp := some (s.rawV 3)
          xmax := some (le16 s Config.params.offXmax)
          ymax := some (le16 s Config.params.offYmax)
          width := some (succExact (le16 s Config.params.offXmax))
          height := some (succExact (le16 s Config.params.offYmax))
          stage := .opening })

/-- R131, R132, R133: the three operations of the `HDR` step, each by itself. That each is also an operation by itself is
the model's choice (log 12, DESIGN CHOICE). -/
def Obligations.HeaderOperationsByThemselves : Prop :=
  ∀ s : State, s.stage = .hdr →
    (s.lenV.toNat < 128 → exec .hdrLen s = .next (raise .truncatedFile s)) ∧
    (128 ≤ s.lenV.toNat → exec .hdrLen s = .next s) ∧
    exec .hdrUnpack s =
      .next { s with
        bpp := some (s.rawV 3)
        xmax := some (le16 s Config.params.offXmax)
        ymax := some (le16 s Config.params.offYmax)
        width := some (succExact (le16 s Config.params.offXmax))
        height := some (succExact (le16 s Config.params.offYmax)) } ∧
    (s.bppV ≠ 8 → exec .hdrCheck s = .next (raise .unsupportedFormat s)) ∧
    (s.bppV = 8 → exec .hdrCheck s = .next { s with stage := .opening })

/-- R130: `HDR` is `HDR.LEN`, then `HDR.UNPACK`, then `HDR.CHECK`, ending at the first fault. That each of the three is
also an operation by itself is the model's choice (log 12, DESIGN CHOICE). -/
def Obligations.HeaderStepIsItsThreeOperations : Prop :=
  ∀ s t : State, s.stage = .hdr → exec .hdrLen s = .next t →
    (t.stage = .fault → exec .hdr s = .next t) ∧
    (t.stage ≠ .fault → ∃ u, exec .hdrUnpack t = .next u ∧ exec .hdr s = exec .hdrCheck u)

/-- R66: the 16-bit field at `off` has the byte at the lower offset as its less significant byte, and reads as a signed
number by two's complement (`sext_16`, R10). -/
def Obligations.HeaderFieldsAreLittleEndianSigned : Prop :=
  ∀ (s : State) (off : Nat),
    (le16 s off).toNat = (s.rawV off).toNat + 256 * (s.rawV (off + 1)).toNat ∧
    (le16 s off).toInt =
      (if (le16 s off).toNat < 32768 then ((le16 s off).toNat : Int) else (le16 s off).toNat - 65536)

/-- R16: `x + 1` is exact in the 17-bit register, from -32767 to 32768, and the product of two positive dimensions is
at most 2^30 and exact in the 31-bit register. -/
def Obligations.DimensionsAreExact : Prop :=
  (∀ x : Half, (succExact x).toInt = x.toInt + 1 ∧ -32767 ≤ (succExact x).toInt ∧ (succExact x).toInt ≤ 32768) ∧
  (∀ x y : Half, 1 ≤ (succExact x).toInt → 1 ≤ (succExact y).toInt →
    1 ≤ (succExact x).toInt * (succExact y).toInt ∧ (succExact x).toInt * (succExact y).toInt ≤ 2 ^ 30 ∧
      ((BitVec.ofInt 31 ((succExact x).toInt * (succExact y).toInt)).toNat : Int) =
        (succExact x).toInt * (succExact y).toInt)

/-- R134: what the `HDR` step leaves depends on no header byte but the one at offset 3 and the two of each dimension
field: with any other `RAW` that reads the same there, it leaves the same, but for `RAW` itself. -/
def Obligations.HeaderStepReadsFiveBytes : Prop :=
  ∀ (s t : State) (m : Memory),
    (∀ a, a = 3 ∨ a = Config.params.offXmax ∨ a = Config.params.offXmax + 1 ∨
      a = Config.params.offYmax ∨ a = Config.params.offYmax + 1 → State.rawV { s with raw := m } a = s.rawV a) →
    exec .hdr s = .next t → exec .hdr { s with raw := m } = .next { t with raw := m }

/-! ## The RLE Decoder -/

/-- R150 (R151, R152, R153): `RLE.OPEN`, which CORE takes whenever `STATE = OPEN`. In the last clause `PIXCNT` is the
exact product. -/
def Obligations.OpenSizesTheBufferOrFaults : Prop :=
  ∀ s : State, s.stage = .opening →
    coreTurn s = exec .rleOpen s ∧
    (s.lenV.toNat < 896 → exec .rleOpen s = .next (raise .truncatedFile s)) ∧
    (896 ≤ s.lenV.toNat → s.widthV.toInt < 1 ∨ s.heightV.toInt < 1 →
      exec .rleOpen s = .next (raise .allocationFailure s)) ∧
    (896 ≤ s.lenV.toNat → 1 ≤ s.widthV.toInt → 1 ≤ s.heightV.toInt →
      (Config.params.pixCap : Int) < s.widthV.toInt * s.heightV.toInt →
      exec .rleOpen s = .next (raise .allocationFailure s)) ∧
    (896 ≤ s.lenV.toNat → 1 ≤ s.widthV.toInt → 1 ≤ s.heightV.toInt →
      s.widthV.toInt * s.heightV.toInt ≤ Config.params.pixCap →
      ∃ cnt : BitVec 31, (cnt.toNat : Int) = s.widthV.toInt * s.heightV.toInt ∧
        exec .rleOpen s =
          .next { s with pixcnt := some cnt, rp := some 128, wp := some 0, rc := some 0, stage := .rle })

/-- R154, R155: the operation CORE takes in the RLE stage, by the table's four rows; the byte at `rp` decides between a
literal (at most 192) and a run marker (above 192). The row of `RUN` stands here in two parts, with and without a value
byte in the region. The fourth clause is the model's, not R154's words (log 13, DEDUCED from R157): at a marker in the
region's last byte R154's table enables `RUN`, and the model has the decoder reject the fetch, on which CORE's turn
raises the `TruncatedFile` that R157 gives that `RUN`. `rp > END` cannot arise. -/
def Obligations.RleStageSelectsByTheTable : Prop :=
  ∀ s : State, s.stage = .rle →
    (s.rcV ≠ 0 → selectCore s = .op .runRep) ∧
    (s.rcV = 0 → s.rpV.toNat < endOff s → (s.rawV s.rpV.toNat).toNat ≤ 192 →
      selectCore s = .op (literal (s.rawV s.rpV.toNat))) ∧
    (s.rcV = 0 → s.rpV.toNat + 1 < endOff s → 192 < (s.rawV s.rpV.toNat).toNat →
      ∃ n : BitVec 6, n.toNat = (s.rawV s.rpV.toNat).toNat - 192 ∧
        selectCore s = .op (.run n (s.rawV (s.rpV.toNat + 1)))) ∧
    (s.rcV = 0 → s.rpV.toNat + 1 = endOff s → 192 < (s.rawV s.rpV.toNat).toNat →
      ∃ n : BitVec 6, n.toNat = (s.rawV s.rpV.toNat).toNat - 192 ∧
        selectCore s = .reject (.danglingMarker n)) ∧
    (s.rcV = 0 → s.rpV.toNat = endOff s → selectCore s = .op .rleClose) ∧
    (s.Inv → s.rpV.toNat ≤ endOff s)

/-- R156: `LIT v`, in each of its four rows, where a token fetch is enabled; and CORE's turn takes it with `v` the byte
at `rp` whenever that byte is at most 192. -/
def Obligations.LiteralWritesOnePixel : Prop :=
  ∀ s : State, s.stage = .rle → s.rcV = 0 → s.rpV.toNat < endOff s →
    (∀ (i : Instr) (v : Byte), i = .lit00 v ∨ i = .lit01 v ∨ i = .lit10 v ∨ (i = .litC0 ∧ v = 192) →
      (s.wpV.toNat < s.pixcntV.toNat →
        exec i s =
          .next { s with
            pix := s.pix.write s.wpV.toNat v, wp := some (s.wpV + 1), rp := some (s.rpV + 1) }) ∧
      (s.pixcntV.toNat ≤ s.wpV.toNat → exec i s = .next (raise .corruptData s))) ∧
    ((s.rawV s.rpV.toNat).toNat ≤ 192 → coreTurn s = exec (literal (s.rawV s.rpV.toNat)) s)

/-- R157: `RUN n, v` where a token fetch is enabled: a value byte outside the region raises `TruncatedFile`, whatever
the buffer holds; else `rc`, `rv` and `rp` are loaded. CORE's turn takes it with `n` the marker less 192 and `v` the
next byte whenever the byte at `rp` is above 192, and raises `TruncatedFile` at a marker in the region's last byte. -/
def Obligations.RunFetchLoadsTheCounter : Prop :=
  ∀ s : State, s.stage = .rle → s.rcV = 0 → s.rpV.toNat < endOff s →
    (∀ (n : BitVec 6) (v : Byte),
      (s.rpV.toNat + 1 < endOff s →
        exec (.run n v) s = .next { s with rc := some n, rv := some v, rp := some (s.rpV + 2) }) ∧
      (endOff s ≤ s.rpV.toNat + 1 → exec (.run n v) s = .next (raise .truncatedFile s))) ∧
    (192 < (s.rawV s.rpV.toNat).toNat →
      (s.rpV.toNat + 1 < endOff s →
        ∃ n : BitVec 6, n.toNat = (s.rawV s.rpV.toNat).toNat - 192 ∧ 1 ≤ n.toNat ∧
          coreTurn s = exec (.run n (s.rawV (s.rpV.toNat + 1))) s) ∧
      (endOff s ≤ s.rpV.toNat + 1 → coreTurn s = .next (raise .truncatedFile s)))

/-- R159: `RUN.REP`, which CORE takes whenever `STATE = RLE` and `rc > 0`. `rv` keeps its value while `rc` stays above
0; whether it holds one when `rc` reaches 0 is left to the statement of the validity table. -/
def Obligations.RunCopyWritesOnePixel : Prop :=
  ∀ s : State, s.stage = .rle → s.rcV ≠ 0 →
    coreTurn s = exec .runRep s ∧
    (s.wpV.toNat < s.pixcntV.toNat →
      ∃ t, exec .runRep s = .next t ∧ (s.rcV ≠ 1 → t.rv = s.rv) ∧
        t = { s with
          pix := s.pix.write s.wpV.toNat s.rvV, wp := some (s.wpV + 1), rc := some (s.rcV - 1), rv := t.rv }) ∧
    (s.pixcntV.toNat ≤ s.wpV.toNat → exec .runRep s = .next (raise .corruptData s))

/-- R158: `RLE.CLOSE`, which CORE takes when `STATE = RLE`, `rc = 0` and `rp = END`. On success, in a state that meets the
invariant, `wp = PIXCNT` exactly and every pixel has been written. Whether `rp`, `rc` and `rv` hold values afterwards is
left to the statement of the validity table. -/
def Obligations.CloseChecksTheFill : Prop :=
  ∀ s : State, s.stage = .rle → s.rcV = 0 → s.rpV.toNat = endOff s →
    coreTurn s = exec .rleClose s ∧
    (s.wpV.toNat < s.pixcntV.toNat → exec .rleClose s = .next (raise .truncatedFile s)) ∧
    (s.pixcntV.toNat ≤ s.wpV.toNat →
      ∃ t, exec .rleClose s = .next t ∧
        t = { s with pi := some 0, stage := .pal, rp := t.rp, rc := t.rc, rv := t.rv } ∧
        (s.Inv → t.wpV = t.pixcntV ∧ ∀ a < t.pixcntV.toNat, ∃ b, t.pix.read a = some b))

/-- R161: every step of the RLE stage raises a fault, or decreases `rc`, or increases `rp` (which stays at most `END`),
or leaves the stage; and it leaves it to PAL only with the region consumed and the buffer full. -/
def Obligations.EveryRleStepMakesProgress : Prop :=
  ∀ s t : State, s.Inv → s.stage = .rle → coreTurn s = .next t →
    t.stage = .fault ∨
    (t.stage = .pal ∧ s.rcV = 0 ∧ s.rpV.toNat = endOff s ∧ s.wpV = s.pixcntV) ∨
    (t.stage = .rle ∧ t.rcV.toNat < s.rcV.toNat ∧ t.rpV = s.rpV) ∨
    (t.stage = .rle ∧ s.rcV = 0 ∧ s.rpV.toNat < t.rpV.toNat ∧ t.rpV.toNat ≤ endOff t)

/-- R160 with R161's bound: from a state in which the RLE stage begins (what `RLE.OPEN` leaves), CORE's steps alone
reach the PAL stage with `PIX[0 .. cnt-1] = out` exactly when `decode(S, []) = Ok(out)`, and `FAULT` with `ERR = K`
exactly when it is `Fault(K)`. -/
def Obligations.RleStageComputesDecode : Prop :=
  ∀ s : State, s.Inv → s.stage = .rle → s.rpV = 128 → s.wpV = 0 → s.rcV = 0 → s.inputs = [] →
    ∃ (k : Nat) (t : State),
      k ≤ (s.lenV.toNat - 896) + 63 * ((s.lenV.toNat - 896) / 2) + 1 ∧
      steps k s = .next t ∧
      (match decodeStream s.pixcntV.toNat (rawSlice s.rawV 128 (s.lenV.toNat - 896)) [] with
        | .ok out => t.stage = .pal ∧ out.length = s.pixcntV.toNat ∧
            ∀ a < s.pixcntV.toNat, t.pix.read a = out[a]?
        | .error e => t.stage = .fault ∧ t.err = e)

/-! ## The Palette Quantizer -/

/-- R15: the quantisation is the truncating division by 8, the upper five bits of the byte, at most 31. -/
def Obligations.QuantisationTruncates : Prop :=
  ∀ v : Byte, (quantise v).toNat = v.toNat / 8 ∧ quantise v = v >>> 3 ∧ quantise v = (v.extractLsb 7 3).setWidth 8 ∧
    (quantise v).toNat ≤ 31

/-- R181: `PAL.Q v` where it is enabled; and CORE's turn takes it with `v` the byte at `LEN - 768 + pi`. -/
def Obligations.PaletteByteIsQuantised : Prop :=
  ∀ s : State, s.stage = .pal → s.piV.toNat < 768 →
    (∀ v : Byte,
      exec (.palQ v) s = .next { s with pal := s.pal.write s.piV.toNat (v / 8), pi := some (s.piV + 1) }) ∧
    coreTurn s = exec (.palQ (s.rawV (s.lenV.toNat - 768 + s.piV.toNat))) s

/-- R182: `PAL.CLOSE`, which CORE takes when `STATE = PAL` and `pi = 768`. Whether `pi` holds a value in DONE is left to
the statement of the validity table. -/
def Obligations.PaletteCloseEndsTheRun : Prop :=
  ∀ s : State, s.stage = .pal → s.piV.toNat = 768 →
    coreTurn s = exec .palClose s ∧ ∃ t, exec .palClose s = .next t ∧ t = { s with stage := .done, pi := t.pi }

/-- R183: from the start of the PAL stage 769 steps of CORE alone end in `DONE` with `PAL = quantize(RAW, LEN)` and
nothing else changed but `pi`. `quantize` as a stand-alone function is `TruncatedFile` exactly where `LEN < 768` (R180),
and elsewhere the 768 bytes of the block divided by 8; in the PAL stage the check never fails. -/
def Obligations.PaletteStageComputesQuantize : Prop :=
  (∀ (raw : Nat → Byte) (len : Nat), len < 768 → quantizeAll raw len = .error .truncatedFile) ∧
  (∀ (raw : Nat → Byte) (len : Nat), 768 ≤ len →
    ∃ pal, quantizeAll raw len = .ok pal ∧ pal.length = 768 ∧ ∀ i < 768, pal[i]? = some (raw (len - 768 + i) / 8)) ∧
  ∀ s : State, s.Inv → s.stage = .pal → s.piV = 0 → s.inputs = [] →
    ∃ (k : Nat) (t : State) (pal : List Byte), k = 769 ∧ steps k s = .next t ∧
      t = { s with stage := .done, pi := t.pi, pal := t.pal } ∧
      quantizeAll s.rawV s.lenV.toNat = .ok pal ∧ ∀ a < 768, t.pal.read a = pal[a]?

/-! ## HOST's moves -/

/-- R192: `START` in `IDLE`. That it is not refused without `P_len` or `P_raw`, where R263 says a model should refuse it,
is the model's choice (log 3, DESIGN CHOICE). R264 says that the hardware still runs with cells of `RAW` unwritten; of an
unwritten `LEN` it says nothing, and that the test then reads the free value of `LEN` is the model's choice as well
(log 2, DESIGN CHOICE). -/
def Obligations.StartBeginsARunOrFaults : Prop :=
  ∀ s : State, s.stage = .idle →
    (Config.params.rawCap < s.lenV.toNat → exec .start s = .next (raise .allocationFailure s)) ∧
    (s.lenV.toNat ≤ Config.params.rawCap → exec .start s = .next { s with stage := .hdr })

/-- R193: `CLEAR` in `DONE` or `FAULT` leaves `STATE = IDLE`, `ERR = None` and no other element with a value.
That the model's own fields stay and a new epoch of free values begins is the model's choice (log 2, DESIGN CHOICE). -/
def Obligations.ClearReleasesEverything : Prop :=
  ∀ s : State, s.stage = .done ∨ s.stage = .fault →
    exec .clear s =
      .next { State.reset with inputs := s.inputs, port := s.port, epoch := s.epoch + 1, draws := s.draws }

/-- R191: the two loading moves in `IDLE`. -/
def Obligations.WritesLoadTheInput : Prop :=
  ∀ s : State, s.stage = .idle →
    (∀ n : BitVec 32, exec (.writeLen n) s = .next { s with len := some n }) ∧
    (∀ (a : Nat) (b : Byte), a < Config.params.rawCap →
      exec (.writeRaw a b) s = .next { s with raw := s.raw.write a b } ∧
      (s.raw.write a b).read a = some b ∧ ∀ x ≠ a, (s.raw.write a b).read x = s.raw.read x)

/-- R194: the read moves where they are legal: each returns what the state holds and changes nothing else, so it may be
repeated. That the returned value stands in the field `port` is the model's choice (log 5, DESIGN CHOICE). -/
def Obligations.ReadMovesReturnAndChangeNothing : Prop :=
  ∀ s : State,
    exec .readStatus s =
      .next { s with
        port := some (.status s.stage s.err s.stage.busy (s.stage == .done) (s.stage == .fault)) } ∧
    (s.stage = .done →
      exec .readHdr s =
        .next { s with
          port := some (.hdr ⟨s.bppV, s.xmaxV, s.ymaxV, s.widthV, s.heightV, s.pixcntV⟩) } ∧
      (∀ a < s.pixcntV.toNat, exec (.readPix a) s = .next { s with port := some (.pix (s.pixV a)) }) ∧
      (∀ a < 768, exec (.readPal a) s = .next { s with port := some (.pal (s.palV a)) }))

/-- R196: a write or command out of place is ignored, and a read out of place changes no element of CORE. That the
value such a read returns is a free value numbered by `draws` is the model's (log 4); that these are moves at all, where
R196 says a model has no such move, is the model's choice (log 3, DESIGN CHOICE). -/
def Obligations.MovesOutOfPlaceChangeNothing : Prop :=
  ∀ s : State,
    (s.stage ≠ .idle →
      exec .start s = .next s ∧ (∀ n, exec (.writeLen n) s = .next s) ∧
      (∀ a b, exec (.writeRaw a b) s = .next s)) ∧
    (s.stage = .idle ∨ s.stage.busy = true → exec .clear s = .next s) ∧
    (∀ a b, Config.params.rawCap ≤ a → exec (.writeRaw a b) s = .next s) ∧
    (s.stage ≠ .done → ∃ t, exec .readHdr s = .next t ∧ s.SameCore t) ∧
    (∀ a, s.stage ≠ .done ∨ s.pixcntV.toNat ≤ a → ∃ t, exec (.readPix a) s = .next t ∧ s.SameCore t) ∧
    (∀ a, s.stage ≠ .done ∨ 768 ≤ a → ∃ t, exec (.readPal a) s = .next t ∧ s.SameCore t)

/-- R74, R77, R229, R265: while BUSY, no move of HOST changes an element of CORE, and CORE's turn neither reads nor
writes HOST's schedule, the port or the draw counter; so a run's course does not depend on what HOST does meanwhile.
The schedule (log 6), the port (log 5) and the draw counter (log 4) are the model's own fields, and that every move of
HOST is a move while BUSY, where R229 and R196 leave it `READ_STATUS` alone, is the model's choice (log 3): all DESIGN
CHOICE. The second clause also covers CORE's turn in `IDLE`, `DONE` and `FAULT` (log 7, DEDUCED). -/
def Obligations.HostCannotDisturbARun : Prop :=
  (∀ (s : State) (m : HostMove), s.stage.busy = true →
    ∃ t, exec m.toInstr s = .next t ∧ t.coreOnly = s.coreOnly) ∧
  (∀ s t : State, coreTurn s = .next t →
    coreTurn s.coreOnly = .next t.coreOnly ∧ t.inputs = s.inputs ∧ t.port = s.port ∧ t.draws = s.draws)

/-! ## The Encoder's boundary -/

/-- R211: the pixel word where the spec defines one: the earlier pixel is the low byte. That `PACK.PIX` is a move of
HOST (log 16, DEDUCED) whose word stands in the field `port` (log 5, DESIGN CHOICE) is the model's. -/
def Obligations.PixelWordIsLowThenHigh : Prop :=
  ∀ (s : State) (j : Nat), s.stage = .done → 2 * j + 1 < s.pixcntV.toNat →
    ∃ w : Half, w.toNat = (s.pixV (2 * j)).toNat + 256 * (s.pixV (2 * j + 1)).toNat ∧
      exec (.packPix j) s = .next { s with port := some (.word w) }

/-- R212: the colour word of entry `k`; with 5-bit channels (R39) the fields do not overlap and bit 15 is zero. That
`PACK.PAL` is a move of HOST (log 16, DEDUCED) whose word stands in the field `port` (log 5, DESIGN CHOICE) is the
model's. -/
def Obligations.ColourWordIsPacked555 : Prop :=
  ∀ (s : State) (k : Nat), s.stage = .done → k < 256 →
    (∀ c, c < 3 → (s.palV (3 * k + c)).toNat ≤ 31) →
    ∃ w : Half, w.toNat = (s.palV (3 * k)).toNat + 32 * (s.palV (3 * k + 1)).toNat +
        1024 * (s.palV (3 * k + 2)).toNat ∧
      exec (.packPal k) s = .next { s with port := some (.word w) }

/-- Where the spec defines no word the Encoder's functions still answer, with a free word, and change no element of
CORE. The free word is the model's choice (log 15), not a rule of the spec. -/
def Obligations.UndefinedWordsAreFree : Prop :=
  (∀ (s : State) (j : Nat), s.stage ≠ .done ∨ s.pixcntV.toNat ≤ 2 * j + 1 →
    exec (.packPix j) s =
      .next { s with port := some (.word (Config.undefinedWord s.draws)), draws := s.draws + 1 }) ∧
  (∀ (s : State) (k : Nat), s.stage ≠ .done ∨ 256 ≤ k →
    exec (.packPal k) s =
      .next { s with port := some (.word (Config.undefinedWord s.draws)), draws := s.draws + 1 })

/-! ## Encodings -/

/-- R104, R106, R110: a few words written out bit by bit decode to the instructions they stand for. -/
def Obligations.SpecWordsDecode : Prop :=
  decode .compressed [0b00000101#8] = .ok (.lit00 5, []) ∧
  decode .compressed [0b01000000#8] = .ok (.lit01 64, []) ∧
  decode .compressed [0b10111111#8] = .ok (.lit10 191, []) ∧
  decode .compressed [0b11000000#8, 0b11000000#8] = .ok (.litC0, [0b11000000#8]) ∧
  decode .compressed [0b11000001#8, 0b11000001#8] = .ok (.run 1 193, []) ∧
  decode .compressed [0b11111111#8, 0b00000000#8] = .ok (.run 63 0, []) ∧
  decode .palette [0b11111111#8] = .ok (.palQ 255, [])

/-- R108: the first-byte map of the compressed region, all 256 values: every one is defined. The last clause is the
model's, not R108's words (log 13, DEDUCED from R111 and R157): the decoder's answer at a marker with no byte after it
in the region is the rejection `danglingMarker`. -/
def Obligations.FirstByteMapIsTotal : Prop :=
  ∀ (b : Byte) (rest : List Byte),
    (b.toNat < 192 → decode .compressed (b :: rest) = .ok (literal b, rest) ∧ encode (literal b) = [b]) ∧
    (b.toNat = 192 → decode .compressed (b :: rest) = .ok (.litC0, rest)) ∧
    (192 < b.toNat →
      ∃ n : BitVec 6, n.toNat = b.toNat - 192 ∧ 1 ≤ n.toNat ∧ n.toNat ≤ 63 ∧
        (∀ v rest', rest = v :: rest' → decode .compressed (b :: rest) = .ok (.run n v, rest')) ∧
        (rest = [] → decode .compressed (b :: rest) = .error (.danglingMarker n)))

/-- Decoding an encoded well-formed instruction gives it back, whatever bytes follow, with every operand at every
value the encoding admits. -/
def Obligations.DecodeOfEncodeIsIdentity : Prop :=
  ∀ (i : Instr) (r : Region) (rest : List Byte), i.wf = true → i.region = some r →
    decode r (encode i ++ rest) = .ok (i, rest)

/-- What decodes is well formed, belongs to its region, and encodes to exactly the bytes it was read from: no bit of an
input byte is dropped, and no two instructions share bytes. -/
def Obligations.EncodeOfDecodeIsIdentity : Prop :=
  ∀ (i : Instr) (r : Region) (bs rest : List Byte), decode r bs = .ok (i, rest) →
    bs = encode i ++ rest ∧ i.wf = true ∧ i.region = some r

/-- The law of S1 over R114 and R160: for every pixel list, the stream of its `PIX` pseudo-tokens decodes to it. -/
def Obligations.PixelStreamsDecodeToTheirPixels : Prop :=
  ∀ g : List Byte, decodeStream g.length (encodeAll (g.map pixToken)) [] = .ok g

/-- R114: `REP m, v` stands for `m` pixels of value `v`: it decodes to them in front of whatever follows. -/
def Obligations.RepeatStreamsDecodeToTheirRun : Prop :=
  ∀ (m cnt : Nat) (v : Byte) (rest out : List Byte), 1 ≤ m → out.length + m ≤ cnt →
    decodeStream cnt (encodeAll (repTokens m v) ++ rest) out = decodeStream cnt rest (out ++ List.replicate m v)

/-! ## Steps and the schedule -/

/-- A step runs the decoded instruction: the bytes at `rp` (R154) or the palette byte at `pi` (R181) decode to the
instruction that CORE's turn executes. The first three clauses are the model's choice (log 6, DESIGN CHOICE): whose turn
it is stands in HOST's schedule, the turn is taken off first, a turn of HOST executes its move, and with the schedule
used up every turn is CORE's. The last clause is the model's reading of R245 (log 7, DEDUCED): where CORE has no enabled
step its turn changes nothing. -/
def Obligations.StepRunsTheDecodedInstruction : Prop :=
  ∀ s : State,
    (s.inputs = [] → step s = coreTurn s) ∧
    (∀ es, s.inputs = .core :: es → step s = coreTurn { s with inputs := es }) ∧
    (∀ m es, s.inputs = .host m :: es → step s = exec m.toInstr { s with inputs := es }) ∧
    (∀ i rest, s.stage = .rle → s.rcV = 0 → s.rpV.toNat < endOff s →
      decode .compressed (fetchBytes s) = .ok (i, rest) → coreTurn s = exec i s) ∧
    (∀ i rest, s.stage = .pal → s.piV.toNat < 768 →
      decode .palette (paletteBytes s) = .ok (i, rest) → coreTurn s = exec i s) ∧
    (s.stage = .idle ∨ s.stage = .done ∨ s.stage = .fault → coreTurn s = .next s)

/-- The state in which a table word is placed fetches it: the step executes what the decoder reads from the word.
That placing a word stands for HOST's loading of the file, and that a table word is read in the compressed region, are
the model's choices (logs 14 and 20, DESIGN CHOICE). -/
def Obligations.PlacedWordIsTheNextInstruction : Prop :=
  ∀ (s : State) (nbits w : Nat) (i : Instr), decodeTableWord nbits w = some i →
    step (s.withFetchWord nbits w) = exec i (s.withFetchWord nbits w)

/-- R197: in each `STATE` where CORE can step, where its turn can lead and with which faults. The last clause is the
model's (log 7, DEDUCED from R245): in `IDLE`, `DONE` and `FAULT`, where CORE has no enabled step, its turn answers the
same state. -/
def Obligations.CoreFollowsTheTransitionGraph : Prop :=
  ∀ s t : State, coreTurn s = .next t →
    (s.stage = .hdr → t.stage = .opening ∨
      (t.stage = .fault ∧ (t.err = .truncatedFile ∨ t.err = .unsupportedFormat))) ∧
    (s.stage = .opening → t.stage = .rle ∨
      (t.stage = .fault ∧ (t.err = .truncatedFile ∨ t.err = .allocationFailure))) ∧
    (s.stage = .rle → t.stage = .rle ∨ t.stage = .pal ∨
      (t.stage = .fault ∧ (t.err = .corruptData ∨ t.err = .truncatedFile))) ∧
    (s.stage = .pal → t.stage = .pal ∨ t.stage = .done) ∧
    (s.stage.busy = false → t = s)

/-- R197, HOST's arrows: of HOST's moves only `START` in `IDLE` and `CLEAR` in `DONE` or `FAULT` move `STATE`. The
statement ranges over the moves out of place too; that they are moves at all is the model's choice (log 3, DESIGN
CHOICE). -/
def Obligations.HostFollowsTheTransitionGraph : Prop :=
  ∀ (s t : State) (m : HostMove), exec m.toInstr s = .next t → t.stage ≠ s.stage →
    (m = .start ∧ s.stage = .idle ∧
      (t.stage = .hdr ∨ (t.stage = .fault ∧ t.err = .allocationFailure))) ∨
    (m = .clear ∧ (s.stage = .done ∨ s.stage = .fault) ∧ t.stage = .idle)

/-- From a state that meets the invariant a step always answers a next state. In each BUSY state one operation of CORE
is enabled (R197, R24, R28). The rest is the model's: no move of HOST is refused, `START` without `P_len` or `P_raw` and
the moves out of place included, where R196 and R263 would give a model no such move (log 3, DESIGN CHOICE); CORE's turn
in `IDLE`, `DONE` and `FAULT` answers the same state (log 7, DEDUCED); and whose turn it is stands in HOST's schedule
(log 6, DESIGN CHOICE). -/
def Obligations.StepNeverStops : Prop :=
  ∀ s : State, s.Inv → ∃ t, step s = .next t

/-! ## Frames -/

/-- The pixel-writing operations, when they raise nothing: of the registers only `wp` and `rp` (`LIT`), or `wp`, `rc`
and (when `rc` reaches 0) `rv` (`RUN.REP`) change; every `PIX` cell but `PIX[wp]`, every `RAW` and every `PAL` cell
reads as before. -/
def Obligations.PixelWritersFrame : Prop :=
  ∀ s t : State, t.stage ≠ .fault →
    (∀ (i : Instr) (v : Byte), i = .lit00 v ∨ i = .lit01 v ∨ i = .lit10 v ∨ (i = .litC0 ∧ v = 192) →
      exec i s = .next t →
      t = { s with rp := t.rp, wp := t.wp, pix := t.pix } ∧
      t.pix.read s.wpV.toNat = some v ∧
      (∀ a, a ≠ s.wpV.toNat → t.pix.read a = s.pix.read a) ∧
      (∀ a, t.raw.read a = s.raw.read a ∧ t.pal.read a = s.pal.read a)) ∧
    (exec .runRep s = .next t →
      t = { s with wp := t.wp, rc := t.rc, rv := t.rv, pix := t.pix } ∧
      (s.rcV ≠ 1 → t.rv = s.rv) ∧
      t.pix.read s.wpV.toNat = some s.rvV ∧
      (∀ a, a ≠ s.wpV.toNat → t.pix.read a = s.pix.read a) ∧
      (∀ a, t.raw.read a = s.raw.read a ∧ t.pal.read a = s.pal.read a))

/-- The operations of CORE that store nothing, when they raise nothing: each changes only the registers named, and
every cell of every memory reads as before. -/
def Obligations.RegisterOperationsFrame : Prop :=
  ∀ s t : State, t.stage ≠ .fault →
    (∀ n v, exec (.run n v) s = .next t → t = { s with rc := t.rc, rv := t.rv, rp := t.rp }) ∧
    (exec .rleOpen s = .next t →
      t = { s with pixcnt := t.pixcnt, rp := t.rp, wp := t.wp, rc := t.rc, stage := t.stage }) ∧
    (exec .rleClose s = .next t →
      t = { s with pi := t.pi, stage := t.stage, rp := t.rp, rc := t.rc, rv := t.rv }) ∧
    (exec .hdrLen s = .next t → t = s) ∧
    (exec .hdrUnpack s = .next t →
      t = { s with bpp := t.bpp, xmax := t.xmax, ymax := t.ymax, width := t.width, height := t.height }) ∧
    (exec .hdrCheck s = .next t → t = { s with stage := t.stage }) ∧
    (exec .hdr s = .next t →
      t = { s with
        bpp := t.bpp, xmax := t.xmax, ymax := t.ymax, width := t.width, height := t.height
        stage := t.stage }) ∧
    (exec .palClose s = .next t → t = { s with stage := t.stage, pi := t.pi }) ∧
    (∀ i, (∃ n v, i = .run n v) ∨ i = .rleOpen ∨ i = .rleClose ∨ i = .hdrLen ∨ i = .hdrUnpack ∨ i = .hdrCheck ∨
        i = .hdr ∨ i = .palClose → exec i s = .next t →
      ∀ a, t.raw.read a = s.raw.read a ∧ t.pix.read a = s.pix.read a ∧ t.pal.read a = s.pal.read a)

/-- `PAL.Q` changes `pi` and the one cell `PAL[pi]`; every other cell of every memory reads as before. -/
def Obligations.PaletteByteFrame : Prop :=
  ∀ (v : Byte) (s t : State), exec (.palQ v) s = .next t →
    t = { s with pi := t.pi, pal := t.pal } ∧
    t.pal.read s.piV.toNat = some (quantise v) ∧
    (∀ a, a ≠ s.piV.toNat → t.pal.read a = s.pal.read a) ∧
    (∀ a, t.raw.read a = s.raw.read a ∧ t.pix.read a = s.pix.read a)

/-- HOST's moves: `WRITE_LEN` changes `LEN` only, `WRITE_RAW(a, b)` the cell `RAW[a]` only, `START` (when it raises
nothing) `STATE` only, and the read moves and packing functions no element of CORE, in any state. The
port (log 5) and the draw counter (log 4) are the model's own fields, and that the moves out of place are moves at all is
the model's choice (log 3): all DESIGN CHOICE. -/
def Obligations.HostMovesFrame : Prop :=
  ∀ s t : State,
    (∀ n, exec (.writeLen n) s = .next t →
      t = { s with len := t.len } ∧
      ∀ a, t.raw.read a = s.raw.read a ∧ t.pix.read a = s.pix.read a ∧ t.pal.read a = s.pal.read a) ∧
    (∀ a b, exec (.writeRaw a b) s = .next t →
      t = { s with raw := t.raw } ∧ (∀ x, x ≠ a → t.raw.read x = s.raw.read x) ∧
      ∀ x, t.pix.read x = s.pix.read x ∧ t.pal.read x = s.pal.read x) ∧
    (t.stage ≠ .fault → exec .start s = .next t → t = { s with stage := t.stage }) ∧
    (∀ i, i = .readStatus ∨ i = .readHdr ∨ (∃ a, i = .readPix a) ∨ (∃ a, i = .readPal a) ∨
        (∃ j, i = .packPix j) ∨ (∃ k, i = .packPal k) → exec i s = .next t →
      t = { s with port := t.port, draws := t.draws } ∧
      ∀ a, t.raw.read a = s.raw.read a ∧ t.pix.read a = s.pix.read a ∧ t.pal.read a = s.pal.read a)

/-- R77: CORE never writes `RAW` (nor `LEN`), and outside `IDLE` nothing but reset and `CLEAR` changes them, `CLEAR`
not while BUSY: the bytes CORE decodes are the bytes at START. That a step takes its turn from HOST's schedule (log 6)
and that HOST's writes outside `IDLE` are moves, which do nothing (log 3), are the model's choices (DESIGN CHOICE). -/
def Obligations.NothingWritesTheInputDuringARun : Prop :=
  (∀ s t : State, coreTurn s = .next t → t.len = s.len ∧ t.raw = s.raw) ∧
  (∀ s t : State, s.stage ≠ .idle → (∀ es, s.inputs ≠ .reset :: es) →
    (s.stage.busy = true ∨ ∀ es, s.inputs ≠ .host .clear :: es) → step s = .next t →
    t.len = s.len ∧ t.raw = s.raw)

/-- R73: CORE never writes `PIX` at or above `PIXCNT` (itself at most `PIX_CAP`) nor `PAL` at or above 768 (a step that
raises writes no cell: all lose their value), and never reads `RAW` at or above `LEN`: with any other `RAW` that reads
the same below `LEN` its turn does the same. -/
def Obligations.CoreStaysInBounds : Prop :=
  ∀ s t : State, s.Inv → coreTurn s = .next t →
    (t.stage ≠ .fault → ∀ a, t.pix.read a ≠ s.pix.read a →
      s.stage = .rle ∧ a = s.wpV.toNat ∧ a < s.pixcntV.toNat ∧ s.pixcntV.toNat ≤ Config.params.pixCap) ∧
    (t.stage ≠ .fault → ∀ a, t.pal.read a ≠ s.pal.read a → s.stage = .pal ∧ a = s.piV.toNat ∧ a < 768) ∧
    (∀ m : Memory, (∀ a < s.lenV.toNat, State.rawV { s with raw := m } a = s.rawV a) →
      coreTurn { s with raw := m } = .next { t with raw := m })

/-! ## Invariants -/

/-- Every step keeps the canonical form of the three memories. -/
def Obligations.StepKeepsMemoryForm : Prop :=
  ∀ s t : State, s.MemForm → step s = .next t → t.MemForm

/-- R22: every step keeps `ERR != None` exactly when `STATE = FAULT`. -/
def Obligations.StepKeepsErrAgreement : Prop :=
  ∀ s t : State, s.ErrAgrees → step s = .next t → t.ErrAgrees

/-- R20, R44: every step keeps the "Valid in" table: exactly the elements it lists for the current `STATE` hold a
value, `PIX` exactly in the cells `0 .. wp-1` and `PAL` exactly in the cells `0 .. pi-1` (all 768 in DONE).
That `rp`, `rc`, `rv` and `pi` lose their value where their stage (or their run) ends is the model's reading of R20, since
R44 does not list these moments (log 9, DEDUCED). -/
def Obligations.StepKeepsTheValidityTable : Prop :=
  ∀ s t : State, s.Presence → step s = .next t → t.Presence

/-- R192: every step keeps that a run in progress or completed has a file that fits `RAW`. -/
def Obligations.StepKeepsTheFileFitting : Prop :=
  ∀ s t : State, s.Fits → step s = .next t → t.Fits

/-- Every step keeps the invariant: canonical memories, `ERR`'s agreement, the validity table, and the ranges and
relations of the elements (R20, R24, R25, R32 to R34, R39, R136). -/
def Obligations.StepKeepsTheInvariant : Prop :=
  ∀ s t : State, s.Inv → step s = .next t → t.Inv

/-- The invariant and the fitting of the file hold at reset. -/
def Obligations.ResetMeetsTheInvariant : Prop := State.reset.Inv ∧ State.reset.Fits

/-! ## Whole runs -/

/-- R201, R198: from `IDLE` with `START` as HOST's only move, the machine reaches, within the bound of R161 and R198, a
state that shows exactly `run(RAW, LEN)`. Three points are the model's, not R201's: R263 claims the function only where
HOST has written `LEN` and `RAW` (P_len, P_raw), and the statement also covers a `START` without them (log 3, DESIGN
CHOICE), where a length or cell that holds no value reads as its free value (log 2, DESIGN CHOICE); and that HOST makes
no move during the run is a schedule with nothing after `START` (log 6, DESIGN CHOICE). That HOST's moves during a run
would not disturb it is the statement HostCannotDisturbARun. -/
def Obligations.RunComputesTheRunFunction : Prop :=
  ∀ s : State, s.Inv → s.stage = .idle → s.inputs = [.host .start] →
    ∃ (k : Nat) (t : State), k ≤ runBound s.lenV.toNat ∧ steps k s = .next t ∧
      t.Shows (runResult Config.params s.rawV s.lenV.toNat)

/-- R264: only the cells CORE reads matter: two inputs of the same length that agree at offset 3, at the two dimension
fields and on `128 .. LEN-1` have the same outcome. -/
def Obligations.OutcomeDependsOnReadCellsOnly : Prop :=
  ∀ (p : Config.Params) (raw raw' : Nat → Byte) (len : Nat),
    (∀ a, a = 3 ∨ a = p.offXmax ∨ a = p.offXmax + 1 ∨ a = p.offYmax ∨ a = p.offYmax + 1 ∨
      (128 ≤ a ∧ a < len) → raw a = raw' a) →
    runResult p raw len = runResult p raw' len

/-- R198, R38, R79: in `DONE` the header registers hold the values HOST reads, `BPP = 8`, the dimensions are positive
and exact, and every pixel `(x, y)` of the image is a readable cell that the run wrote. That what a read returns stands in
the field `port` is the model's choice (log 5, DESIGN CHOICE). -/
def Obligations.DoneHoldsTheWholeImage : Prop :=
  ∀ s : State, s.Inv → s.stage = .done →
    s.err = .none ∧ s.bpp = some 8 ∧ 1 ≤ s.widthV.toInt ∧ 1 ≤ s.heightV.toInt ∧
    s.widthV.toInt = s.xmaxV.toInt + 1 ∧ s.heightV.toInt = s.ymaxV.toInt + 1 ∧
    (s.pixcntV.toNat : Int) = s.widthV.toInt * s.heightV.toInt ∧
    (∀ x y : Nat, (x : Int) < s.widthV.toInt → (y : Int) < s.heightV.toInt →
      ∃ b, s.pix.read (pixelIndex s x y) = some b ∧
        exec (.readPix (pixelIndex s x y)) s = .next { s with port := some (.pix b) }) ∧
    (∀ a < 768, ∃ b, s.pal.read a = some b ∧ b.toNat ≤ 31 ∧
      exec (.readPal a) s = .next { s with port := some (.pal b) })

/-! ## Status -/

/-- R36: the three flags are functions of `STATE`, and exactly one of `IDLE`, `BUSY`, `DONE`, `FAULT` holds. -/
def Obligations.ExactlyOneStatusHolds : Prop :=
  ∀ s : State,
    (s.busyFlag = true ↔ s.stage = .hdr ∨ s.stage = .opening ∨ s.stage = .rle ∨ s.stage = .pal) ∧
    (s.doneFlag = true ↔ s.stage = .done) ∧ (s.faultFlag = true ↔ s.stage = .fault) ∧
    ((s.stage = .idle ∧ s.busyFlag = false ∧ s.doneFlag = false ∧ s.faultFlag = false) ∨
      (s.stage ≠ .idle ∧ s.busyFlag = true ∧ s.doneFlag = false ∧ s.faultFlag = false) ∨
      (s.stage ≠ .idle ∧ s.busyFlag = false ∧ s.doneFlag = true ∧ s.faultFlag = false) ∨
      (s.stage ≠ .idle ∧ s.busyFlag = false ∧ s.doneFlag = false ∧ s.faultFlag = true))

/-- R221: the numeric fault codes. -/
def Obligations.FaultCodesAreTheTable : Prop :=
  ErrKind.none.code = 0 ∧ ErrKind.unsupportedFormat.code = 1 ∧ ErrKind.truncatedFile.code = 2 ∧
    ErrKind.corruptData.code = 3 ∧ ErrKind.allocationFailure.code = 4

/-- R21: the numeric encodings of `STATE`; 7 is never taken. -/
def Obligations.StageCodesAreTheTable : Prop :=
  Stage.idle.code = 0 ∧ Stage.hdr.code = 1 ∧ Stage.opening.code = 2 ∧ Stage.rle.code = 3 ∧ Stage.pal.code = 4 ∧
    Stage.done.code = 5 ∧ Stage.fault.code = 6 ∧ ∀ g : Stage, g.code ≠ 7
end

