-- ==== Sys2Proof/Laws/Config.lean ====
section
/-! SUPPORT. The parameters meet R8's constraints, whatever the instance chose, and every admitted value is reached. -/

namespace Sys2Proof.Config

@[simp] theorem hdrSize_eq : hdrSize = 128 := rfl
@[simp] theorem palSize_eq : palSize = 768 := rfl
@[simp] theorem palEntries_eq : palEntries = 256 := rfl
@[simp] theorem minLen_eq : minLen = 896 := rfl
@[simp] theorem offBpp_eq : offBpp = 3 := rfl
@[simp] theorem bppOk_eq : bppOk = 8 := rfl
@[simp] theorem runBase_eq : runBase = 192 := rfl
@[simp] theorem qDiv_eq : qDiv = 8 := rfl

theorem le_clamp (lo hi x : Nat) : lo ≤ clamp lo hi x := Nat.le_max_left _ _

theorem clamp_le (lo hi x : Nat) (h : lo ≤ hi) : clamp lo hi x ≤ hi :=
  Nat.max_le.mpr ⟨h, Nat.min_le_right _ _⟩

/-- `clamp` shuts no admitted value out. -/
theorem clamp_of_mem (lo hi x : Nat) (h₁ : lo ≤ x) (h₂ : x ≤ hi) : clamp lo hi x = x := by
  simp [clamp, Nat.min_eq_left h₂, Nat.max_eq_right h₁]

/-- The launch premise `P_params` (R8, R263). -/
theorem params_ok : params.Ok :=
  ⟨⟨le_clamp _ _ _, clamp_le _ _ _ (by norm_num)⟩, ⟨le_clamp _ _ _, clamp_le _ _ _ (by norm_num)⟩,
    clamp_le _ _ _ (by norm_num), clamp_le _ _ _ (by norm_num)⟩

end Sys2Proof.Config
end

