-- ==== Sys2Proof/Laws/BigStep.lean ====
section
/-! SUPPORT. What the big-step functions answer, once each, for the proofs that cite them. -/

namespace Sys2Proof.Machine

@[simp] theorem rawSlice_length (raw : Nat → Byte) (a n : Nat) : (rawSlice raw a n).length = n := by
  simp [rawSlice]

theorem rawSlice_getElem? (raw : Nat → Byte) (a : Nat) {n i : Nat} (h : i < n) :
    (rawSlice raw a n)[i]? = some (raw (a + i)) := by
  simp [rawSlice, h]

/-- The check of R180. -/
theorem quantizeAll_short (raw : Nat → Byte) {len : Nat} (h : len < 768) :
    quantizeAll raw len = .error .truncatedFile := if_pos h

/-- `quantize(RAW, LEN)` of a file that holds the palette block. -/
theorem quantizeAll_ok (raw : Nat → Byte) {len : Nat} (h : 768 ≤ len) :
    quantizeAll raw len = .ok ((rawSlice raw (len - 768) 768).map quantise) := if_neg (Nat.not_lt.mpr h)

end Sys2Proof.Machine
end

