-- ==== Sys2Proof/Laws/Decode.lean ====
section
/-! SUPPORT. The rows of the opcode table read as ranges of the first byte (R108), and what the token decoder does on
each range. -/

namespace Sys2Proof

/-- Which row a first byte hits, in decode order (R105, R106, R108). -/
theorem row_hits : ∀ b : Byte,
    (rowLit00.hit b = true ↔ b.toNat < 64) ∧ (rowLit01.hit b = true ↔ 64 ≤ b.toNat ∧ b.toNat < 128) ∧
    (rowLit10.hit b = true ↔ 128 ≤ b.toNat ∧ b.toNat < 192) ∧ (rowLitC0.hit b = true ↔ b.toNat = 192) := by
  decide +kernel

/-- `n = b - 192` (R14, R107). -/
theorem runCount_toNat : ∀ b : Byte, 192 < b.toNat → (runCount b).toNat = b.toNat - 192 := by decide +kernel

/-- The marker of a count is 192 more (R104). -/
theorem runMarker_toNat : ∀ n : BitVec 6, (runMarker n).toNat = 192 + n.toNat := by decide +kernel

theorem runCount_runMarker : ∀ n : BitVec 6, runCount (runMarker n) = n := by decide +kernel

theorem runMarker_runCount : ∀ b : Byte, 192 < b.toNat → runMarker (runCount b) = b := by decide +kernel

/-- The boundary byte (R106). -/
theorem byte_eq_192 : ∀ b : Byte, b.toNat = 192 → b = 192 := by decide +kernel

theorem decodeToken_literal (b : Byte) (rest : List Byte) (h : b.toNat ≤ 192) :
    decodeToken (b :: rest) = .ok (literal b, rest) := by
  obtain ⟨h₀, h₁, h₂, h₃⟩ := row_hits b
  unfold decodeToken literal
  by_cases c₀ : rowLit00.hit b = true
  · simp [c₀]
  · by_cases c₁ : rowLit01.hit b = true
    · simp [c₀, c₁]
    · by_cases c₂ : rowLit10.hit b = true
      · simp [c₀, c₁, c₂]
      · have c₃ : rowLitC0.hit b = true := h₃.mpr (by rw [h₀] at c₀; rw [h₁] at c₁; rw [h₂] at c₂; omega)
        simp [c₀, c₁, c₂, c₃]

/-- No literal row hits a byte above 192. -/
theorem no_literal_row (b : Byte) (h : 192 < b.toNat) :
    rowLit00.hit b = false ∧ rowLit01.hit b = false ∧ rowLit10.hit b = false ∧ rowLitC0.hit b = false := by
  obtain ⟨h₀, h₁, h₂, h₃⟩ := row_hits b
  simp only [← Bool.not_eq_true, h₀, h₁, h₂, h₃]
  omega

theorem decodeToken_run (b v : Byte) (rest : List Byte) (h : 192 < b.toNat) :
    decodeToken (b :: v :: rest) = .ok (.run (runCount b) v, rest) := by
  obtain ⟨h₀, h₁, h₂, h₃⟩ := no_literal_row b h
  simp [decodeToken, h₀, h₁, h₂, h₃]

theorem decodeToken_dangling (b : Byte) (h : 192 < b.toNat) :
    decodeToken [b] = .error (.danglingMarker (runCount b)) := by
  obtain ⟨h₀, h₁, h₂, h₃⟩ := no_literal_row b h
  simp [decodeToken, h₀, h₁, h₂, h₃]

/-- A literal is one of the four rows, well formed, and its one byte is its value. -/
theorem literal_cases (b : Byte) (h : b.toNat ≤ 192) :
    (literal b = .lit00 b ∨ literal b = .lit01 b ∨ literal b = .lit10 b ∨ (literal b = .litC0 ∧ b = 192)) ∧
      (literal b).wf = true ∧ (literal b).region = some .compressed ∧ encode (literal b) = [b] := by
  obtain ⟨h₀, h₁, h₂, _⟩ := row_hits b
  unfold literal
  by_cases c₀ : rowLit00.hit b = true
  · simp [c₀, Instr.wf, Instr.region, encode, h₀.mp c₀]
  · by_cases c₁ : rowLit01.hit b = true
    · simp [c₀, c₁, Instr.wf, Instr.region, encode, h₁.mp c₁]
    · by_cases c₂ : rowLit10.hit b = true
      · simp [c₀, c₁, c₂, Instr.wf, Instr.region, encode, h₂.mp c₂]
      · have hb : b = 192 := byte_eq_192 b (by rw [h₀] at c₀; rw [h₁] at c₁; rw [h₂] at c₂; omega)
        simp only [if_neg c₀, if_neg c₁, if_neg c₂]
        exact ⟨.inr (.inr (.inr ⟨trivial, hb⟩)), rfl, rfl, by rw [hb]; rfl⟩

end Sys2Proof
end

