-- ==== Sys2Proof/Laws/Memory.lean ====
section
/-! SUPPORT. The laws of a byte memory: a read gives the last byte written there, a write leaves every other cell
alone, and every write keeps the canonical form. -/

namespace Sys2Proof.Machine

@[simp] theorem Memory.read_nil (a : Nat) : Memory.read [] a = none := rfl

@[simp] theorem Memory.read_write_same (m : Memory) (a : Nat) (b : Byte) : (m.write a b).read a = some b := by
  induction m with
  | nil => simp [Memory.write, Memory.read]
  | cons c m ih =>
    obtain ⟨k, d⟩ := c
    by_cases h₁ : a < k
    · simp [Memory.write, Memory.read, h₁]
    · by_cases h₂ : a = k
      · simp [Memory.write, Memory.read, h₂]
      · simp [Memory.write, Memory.read, h₁, h₂, Ne.symm h₂, ih]

theorem Memory.read_write_other (m : Memory) {a x : Nat} (b : Byte) (h : x ≠ a) :
    (m.write a b).read x = m.read x := by
  induction m with
  | nil => simp [Memory.write, Memory.read, h.symm]
  | cons c m ih =>
    obtain ⟨k, d⟩ := c
    by_cases h₁ : a < k
    · simp [Memory.write, Memory.read, h₁, h.symm]
    · by_cases h₂ : a = k
      · subst h₂
        simp [Memory.write, Memory.read, h.symm]
      · simp [Memory.write, Memory.read, h₁, h₂, ih]

/-- A cell of a written memory is the one written or an old one. -/
theorem Memory.mem_write {m : Memory} {a : Nat} {b : Byte} {c : Host.Cell} (h : c ∈ m.write a b) :
    c = (a, b) ∨ c ∈ m := by
  induction m with
  | nil => simpa [Memory.write] using h
  | cons d m ih =>
    obtain ⟨k, e⟩ := d
    by_cases h₁ : a < k
    · simpa [Memory.write, h₁] using h
    · by_cases h₂ : a = k
      · subst h₂
        simp only [Memory.write, Nat.lt_irrefl, if_false, if_true, List.mem_cons] at h ⊢
        tauto
      · simp only [Memory.write, h₁, h₂, if_false, List.mem_cons] at h ⊢
        tauto

theorem Memory.wf_nil : Memory.wf [] := List.Pairwise.nil

/-- Every write keeps the canonical form. -/
theorem Memory.wf_write {m : Memory} (h : m.wf) (a : Nat) (b : Byte) : (m.write a b).wf := by
  induction m with
  | nil => simp [Memory.write, Memory.wf]
  | cons c m ih =>
    obtain ⟨k, d⟩ := c
    obtain ⟨hk, hm⟩ := List.pairwise_cons.mp h
    by_cases h₁ : a < k
    · simp only [Memory.write, h₁, if_true]
      refine List.pairwise_cons.mpr ⟨fun x hx => ?_, h⟩
      rcases List.mem_cons.mp hx with rfl | hx
      · exact h₁
      · exact Nat.lt_trans h₁ (hk x hx)
    · by_cases h₂ : a = k
      · subst h₂
        simp only [Memory.write, Nat.lt_irrefl, if_false, if_true]
        exact List.pairwise_cons.mpr ⟨hk, hm⟩
      · simp only [Memory.write, h₁, h₂, if_false]
        refine List.pairwise_cons.mpr ⟨fun x hx => ?_, ih hm⟩
        rcases Memory.mem_write hx with rfl | hx
        · exact Nat.lt_of_le_of_ne (Nat.le_of_not_lt h₁) (Ne.symm h₂)
        · exact hk x hx

/-- A write above every listed address appends. -/
theorem Memory.write_append {m : Memory} {a : Nat} (b : Byte) (h : ∀ x ∈ m.addresses, x < a) :
    m.write a b = m ++ [(a, b)] := by
  induction m with
  | nil => rfl
  | cons c m ih =>
    obtain ⟨k, d⟩ := c
    have hk : k < a := h k (by simp [Memory.addresses])
    have hm : ∀ x ∈ Memory.addresses m, x < a := fun x hx => h x (by simp [Memory.addresses] at hx ⊢; tauto)
    simp [Memory.write, Nat.not_lt.mpr (Nat.le_of_lt hk), Nat.ne_of_gt hk, ih hm]

/-- The next cell of a memory filled from 0 up. -/
theorem Memory.addresses_write_next {m : Memory} {n : Nat} (b : Byte) (h : m.addresses = List.range n) :
    (m.write n b).addresses = List.range (n + 1) := by
  rw [Memory.write_append b (by rw [h]; simp), List.range_succ, ← h]
  simp [Memory.addresses]

/-- A cell holds a value exactly when it is listed. -/
theorem Memory.read_isSome_iff (m : Memory) (a : Nat) : (m.read a).isSome = true ↔ a ∈ m.addresses := by
  induction m with
  | nil => simp [Memory.addresses]
  | cons c m ih =>
    obtain ⟨k, d⟩ := c
    by_cases h : k = a
    · simp [Memory.read, Memory.addresses, h]
    · simp only [Memory.read, h, if_false, ih]
      simp [Memory.addresses, Ne.symm h]

/-- A byte that is read is listed. -/
theorem Memory.mem_of_read {m : Memory} {a : Nat} {b : Byte} (h : m.read a = some b) : (a, b) ∈ m := by
  induction m with
  | nil => cases h
  | cons c m ih =>
    obtain ⟨k, d⟩ := c
    by_cases hk : k = a
    · simp only [Memory.read, hk, if_true, Option.some.injEq] at h
      rw [hk, h]
      exact List.mem_cons_self ..
    · simp only [Memory.read, hk, if_false] at h
      exact List.mem_cons_of_mem _ (ih h)

end Sys2Proof.Machine
end

