-- ==== Sys2Proof/Laws/State.lean ====
section
/-! SUPPORT. One lemma per field of `State` per named update, each true by `rfl`, so that no proof unfolds a record
update. -/

namespace Sys2Proof.Machine

/-! taking a fault (R226) -/

@[simp] theorem raise_stage (k : ErrKind) (s : State) : (raise k s).stage = .fault := rfl
@[simp] theorem raise_err (k : ErrKind) (s : State) : (raise k s).err = k := rfl
@[simp] theorem raise_len (k : ErrKind) (s : State) : (raise k s).len = s.len := rfl
@[simp] theorem raise_rp (k : ErrKind) (s : State) : (raise k s).rp = none := rfl
@[simp] theorem raise_wp (k : ErrKind) (s : State) : (raise k s).wp = none := rfl
@[simp] theorem raise_rc (k : ErrKind) (s : State) : (raise k s).rc = none := rfl
@[simp] theorem raise_rv (k : ErrKind) (s : State) : (raise k s).rv = none := rfl
@[simp] theorem raise_pi (k : ErrKind) (s : State) : (raise k s).pi = none := rfl
@[simp] theorem raise_bpp (k : ErrKind) (s : State) : (raise k s).bpp = none := rfl
@[simp] theorem raise_xmax (k : ErrKind) (s : State) : (raise k s).xmax = none := rfl
@[simp] theorem raise_ymax (k : ErrKind) (s : State) : (raise k s).ymax = none := rfl
@[simp] theorem raise_width (k : ErrKind) (s : State) : (raise k s).width = none := rfl
@[simp] theorem raise_height (k : ErrKind) (s : State) : (raise k s).height = none := rfl
@[simp] theorem raise_pixcnt (k : ErrKind) (s : State) : (raise k s).pixcnt = none := rfl
@[simp] theorem raise_raw (k : ErrKind) (s : State) : (raise k s).raw = s.raw := rfl
@[simp] theorem raise_pix (k : ErrKind) (s : State) : (raise k s).pix = [] := rfl
@[simp] theorem raise_pal (k : ErrKind) (s : State) : (raise k s).pal = [] := rfl
@[simp] theorem raise_inputs (k : ErrKind) (s : State) : (raise k s).inputs = s.inputs := rfl
@[simp] theorem raise_port (k : ErrKind) (s : State) : (raise k s).port = s.port := rfl
@[simp] theorem raise_epoch (k : ErrKind) (s : State) : (raise k s).epoch = s.epoch := rfl
@[simp] theorem raise_draws (k : ErrKind) (s : State) : (raise k s).draws = s.draws := rfl

/-! `CLEAR` and reset (R193, R260) -/

@[simp] theorem release_stage (s : State) : (release s).stage = .idle := rfl
@[simp] theorem release_err (s : State) : (release s).err = .none := rfl
@[simp] theorem release_len (s : State) : (release s).len = none := rfl
@[simp] theorem release_rp (s : State) : (release s).rp = none := rfl
@[simp] theorem release_wp (s : State) : (release s).wp = none := rfl
@[simp] theorem release_rc (s : State) : (release s).rc = none := rfl
@[simp] theorem release_rv (s : State) : (release s).rv = none := rfl
@[simp] theorem release_pi (s : State) : (release s).pi = none := rfl
@[simp] theorem release_bpp (s : State) : (release s).bpp = none := rfl
@[simp] theorem release_xmax (s : State) : (release s).xmax = none := rfl
@[simp] theorem release_ymax (s : State) : (release s).ymax = none := rfl
@[simp] theorem release_width (s : State) : (release s).width = none := rfl
@[simp] theorem release_height (s : State) : (release s).height = none := rfl
@[simp] theorem release_pixcnt (s : State) : (release s).pixcnt = none := rfl
@[simp] theorem release_raw (s : State) : (release s).raw = [] := rfl
@[simp] theorem release_pix (s : State) : (release s).pix = [] := rfl
@[simp] theorem release_pal (s : State) : (release s).pal = [] := rfl
@[simp] theorem release_inputs (s : State) : (release s).inputs = s.inputs := rfl
@[simp] theorem release_port (s : State) : (release s).port = s.port := rfl
@[simp] theorem release_epoch (s : State) : (release s).epoch = s.epoch + 1 := rfl
@[simp] theorem release_draws (s : State) : (release s).draws = s.draws := rfl

/-! a read move (R194) -/

@[simp] theorem respond_stage (r : Response) (s : State) : (respond r s).stage = s.stage := rfl
@[simp] theorem respond_err (r : Response) (s : State) : (respond r s).err = s.err := rfl
@[simp] theorem respond_len (r : Response) (s : State) : (respond r s).len = s.len := rfl
@[simp] theorem respond_rp (r : Response) (s : State) : (respond r s).rp = s.rp := rfl
@[simp] theorem respond_wp (r : Response) (s : State) : (respond r s).wp = s.wp := rfl
@[simp] theorem respond_rc (r : Response) (s : State) : (respond r s).rc = s.rc := rfl
@[simp] theorem respond_rv (r : Response) (s : State) : (respond r s).rv = s.rv := rfl
@[simp] theorem respond_pi (r : Response) (s : State) : (respond r s).pi = s.pi := rfl
@[simp] theorem respond_bpp (r : Response) (s : State) : (respond r s).bpp = s.bpp := rfl
@[simp] theorem respond_xmax (r : Response) (s : State) : (respond r s).xmax = s.xmax := rfl
@[simp] theorem respond_ymax (r : Response) (s : State) : (respond r s).ymax = s.ymax := rfl
@[simp] theorem respond_width (r : Response) (s : State) : (respond r s).width = s.width := rfl
@[simp] theorem respond_height (r : Response) (s : State) : (respond r s).height = s.height := rfl
@[simp] theorem respond_pixcnt (r : Response) (s : State) : (respond r s).pixcnt = s.pixcnt := rfl
@[simp] theorem respond_raw (r : Response) (s : State) : (respond r s).raw = s.raw := rfl
@[simp] theorem respond_pix (r : Response) (s : State) : (respond r s).pix = s.pix := rfl
@[simp] theorem respond_pal (r : Response) (s : State) : (respond r s).pal = s.pal := rfl
@[simp] theorem respond_inputs (r : Response) (s : State) : (respond r s).inputs = s.inputs := rfl
@[simp] theorem respond_port (r : Response) (s : State) : (respond r s).port = some r := rfl
@[simp] theorem respond_epoch (r : Response) (s : State) : (respond r s).epoch = s.epoch := rfl
@[simp] theorem respond_draws (r : Response) (s : State) : (respond r s).draws = s.draws := rfl

/-! an unspecified read (R196) -/

@[simp] theorem respondFree_stage (r : Response) (s : State) : (respondFree r s).stage = s.stage := rfl
@[simp] theorem respondFree_err (r : Response) (s : State) : (respondFree r s).err = s.err := rfl
@[simp] theorem respondFree_len (r : Response) (s : State) : (respondFree r s).len = s.len := rfl
@[simp] theorem respondFree_rp (r : Response) (s : State) : (respondFree r s).rp = s.rp := rfl
@[simp] theorem respondFree_wp (r : Response) (s : State) : (respondFree r s).wp = s.wp := rfl
@[simp] theorem respondFree_rc (r : Response) (s : State) : (respondFree r s).rc = s.rc := rfl
@[simp] theorem respondFree_rv (r : Response) (s : State) : (respondFree r s).rv = s.rv := rfl
@[simp] theorem respondFree_pi (r : Response) (s : State) : (respondFree r s).pi = s.pi := rfl
@[simp] theorem respondFree_bpp (r : Response) (s : State) : (respondFree r s).bpp = s.bpp := rfl
@[simp] theorem respondFree_xmax (r : Response) (s : State) : (respondFree r s).xmax = s.xmax := rfl
@[simp] theorem respondFree_ymax (r : Response) (s : State) : (respondFree r s).ymax = s.ymax := rfl
@[simp] theorem respondFree_width (r : Response) (s : State) : (respondFree r s).width = s.width := rfl
@[simp] theorem respondFree_height (r : Response) (s : State) : (respondFree r s).height = s.height := rfl
@[simp] theorem respondFree_pixcnt (r : Response) (s : State) : (respondFree r s).pixcnt = s.pixcnt := rfl
@[simp] theorem respondFree_raw (r : Response) (s : State) : (respondFree r s).raw = s.raw := rfl
@[simp] theorem respondFree_pix (r : Response) (s : State) : (respondFree r s).pix = s.pix := rfl
@[simp] theorem respondFree_pal (r : Response) (s : State) : (respondFree r s).pal = s.pal := rfl
@[simp] theorem respondFree_inputs (r : Response) (s : State) : (respondFree r s).inputs = s.inputs := rfl
@[simp] theorem respondFree_port (r : Response) (s : State) : (respondFree r s).port = some r := rfl
@[simp] theorem respondFree_epoch (r : Response) (s : State) : (respondFree r s).epoch = s.epoch := rfl
@[simp] theorem respondFree_draws (r : Response) (s : State) : (respondFree r s).draws = s.draws + 1 := rfl

/-! one pixel written (R156, R159) -/

@[simp] theorem emit_stage (v : Byte) (s : State) : (emit v s).stage = s.stage := rfl
@[simp] theorem emit_err (v : Byte) (s : State) : (emit v s).err = s.err := rfl
@[simp] theorem emit_len (v : Byte) (s : State) : (emit v s).len = s.len := rfl
@[simp] theorem emit_rp (v : Byte) (s : State) : (emit v s).rp = s.rp := rfl
@[simp] theorem emit_wp (v : Byte) (s : State) : (emit v s).wp = some (s.wpV + 1) := rfl
@[simp] theorem emit_rc (v : Byte) (s : State) : (emit v s).rc = s.rc := rfl
@[simp] theorem emit_rv (v : Byte) (s : State) : (emit v s).rv = s.rv := rfl
@[simp] theorem emit_pi (v : Byte) (s : State) : (emit v s).pi = s.pi := rfl
@[simp] theorem emit_bpp (v : Byte) (s : State) : (emit v s).bpp = s.bpp := rfl
@[simp] theorem emit_xmax (v : Byte) (s : State) : (emit v s).xmax = s.xmax := rfl
@[simp] theorem emit_ymax (v : Byte) (s : State) : (emit v s).ymax = s.ymax := rfl
@[simp] theorem emit_width (v : Byte) (s : State) : (emit v s).width = s.width := rfl
@[simp] theorem emit_height (v : Byte) (s : State) : (emit v s).height = s.height := rfl
@[simp] theorem emit_pixcnt (v : Byte) (s : State) : (emit v s).pixcnt = s.pixcnt := rfl
@[simp] theorem emit_raw (v : Byte) (s : State) : (emit v s).raw = s.raw := rfl
@[simp] theorem emit_pix (v : Byte) (s : State) : (emit v s).pix = s.pix.write s.wpV.toNat v := rfl
@[simp] theorem emit_pal (v : Byte) (s : State) : (emit v s).pal = s.pal := rfl
@[simp] theorem emit_inputs (v : Byte) (s : State) : (emit v s).inputs = s.inputs := rfl
@[simp] theorem emit_port (v : Byte) (s : State) : (emit v s).port = s.port := rfl
@[simp] theorem emit_epoch (v : Byte) (s : State) : (emit v s).epoch = s.epoch := rfl
@[simp] theorem emit_draws (v : Byte) (s : State) : (emit v s).draws = s.draws := rfl

end Sys2Proof.Machine
end

