-- ==== Sys2Proof/Laws/Ops.lean ====
section
/-! SUPPORT. For each shared operation, once, everything it can do. -/

namespace Sys2Proof.Machine

/-- A guarded operation answers a next state exactly when it is enabled. -/
theorem whenEnabled_next {name : String} {c : Prop} [Decidable c] {t u : State} :
    whenEnabled name c t = .next u ↔ c ∧ t = u := by
  by_cases h : c <;> simp [whenEnabled, h]

theorem whenEnabled_of {name : String} {c : Prop} [Decidable c] {t : State} (h : c) :
    whenEnabled name c t = .next t := by simp [whenEnabled, h]

/-- A guarded operation never faults. -/
theorem whenEnabled_ne_fault {name : String} {c : Prop} [Decidable c] {t : State} {r : Fault} :
    whenEnabled name c t ≠ .fault r := by
  by_cases h : c <;> simp [whenEnabled, h]

/-- `LIT v` (R156). -/
theorem litStep_cases (v : Byte) (s : State) :
    (pixFull s ∧ litStep v s = raise .corruptData s) ∨
      (s.wpV.toNat < s.pixcntV.toNat ∧ litStep v s = { emit v s with rp := some (s.rpV + 1) }) := by
  by_cases h : pixFull s
  · exact .inl ⟨h, if_pos h⟩
  · exact .inr ⟨Nat.lt_of_not_le h, if_neg h⟩

/-- `RUN n, v` (R157). -/
theorem runStep_cases (n : BitVec 6) (v : Byte) (s : State) :
    (endOff s ≤ s.rpV.toNat + 1 ∧ runStep n v s = raise .truncatedFile s) ∨
      (s.rpV.toNat + 1 < endOff s ∧
        runStep n v s = { s with rc := some n, rv := some v, rp := some (s.rpV + 2) }) := by
  by_cases h : endOff s ≤ s.rpV.toNat + 1
  · exact .inl ⟨h, if_pos h⟩
  · exact .inr ⟨Nat.lt_of_not_le h, if_neg h⟩

/-- `RUN.REP` (R159). -/
theorem runRepStep_cases (s : State) :
    (pixFull s ∧ runRepStep s = raise .corruptData s) ∨
      (s.wpV.toNat < s.pixcntV.toNat ∧
        runRepStep s =
          { emit s.rvV s with rc := some (s.rcV - 1), rv := if s.rcV = 1 then none else s.rv }) := by
  by_cases h : pixFull s
  · exact .inl ⟨h, if_pos h⟩
  · exact .inr ⟨Nat.lt_of_not_le h, if_neg h⟩

/-- `RLE.OPEN` (R150). -/
theorem openStep_cases (p : Config.Params) (s : State) :
    (s.lenV.toNat < 896 ∧ openStep p s = raise .truncatedFile s) ∨
    (896 ≤ s.lenV.toNat ∧ (s.widthV.toInt < 1 ∨ s.heightV.toInt < 1 ∨ (p.pixCap : Int) < pixelProduct s) ∧
      openStep p s = raise .allocationFailure s) ∨
    (896 ≤ s.lenV.toNat ∧ 1 ≤ s.widthV.toInt ∧ 1 ≤ s.heightV.toInt ∧ pixelProduct s ≤ p.pixCap ∧
      openStep p s =
        { s with
          pixcnt := some (BitVec.ofInt 31 (pixelProduct s))
          rp := some 128, wp := some 0, rc := some 0
          stage := .rle }) := by
  unfold openStep
  by_cases h₁ : s.lenV.toNat < Config.minLen
  · exact .inl ⟨h₁, if_pos h₁⟩
  · rw [if_neg h₁]
    by_cases h₂ : s.widthV.toInt < 1 ∨ s.heightV.toInt < 1
    · exact .inr (.inl ⟨Nat.le_of_not_lt h₁, by tauto, if_pos h₂⟩)
    · rw [if_neg h₂]
      by_cases h₃ : (p.pixCap : Int) < pixelProduct s
      · exact .inr (.inl ⟨Nat.le_of_not_lt h₁, by tauto, if_pos h₃⟩)
      · exact .inr (.inr ⟨Nat.le_of_not_lt h₁, by omega, by omega, by omega, if_neg h₃⟩)

/-- `RLE.CLOSE` (R158). -/
theorem closeStep_cases (s : State) :
    (s.wpV.toNat < s.pixcntV.toNat ∧ closeStep s = raise .truncatedFile s) ∨
      (s.pixcntV.toNat ≤ s.wpV.toNat ∧
        closeStep s = { s with pi := some 0, stage := .pal, rp := none, rc := none, rv := none }) := by
  by_cases h : s.wpV.toNat < s.pixcntV.toNat
  · exact .inl ⟨h, if_pos h⟩
  · exact .inr ⟨Nat.le_of_not_lt h, if_neg h⟩

/-- What `HDR` leaves when it raises nothing (R130). -/
def headerLatched (p : Config.Params) (s : State) : State :=
  { unpackStep p s with stage := .opening }

/-- `HDR` (R130). -/
theorem hdrStep_cases (p : Config.Params) (s : State) (hs : s.stage = .hdr) :
    (s.lenV.toNat < 128 ∧ hdrStep p s = raise .truncatedFile s) ∨
    (128 ≤ s.lenV.toNat ∧ s.rawV 3 ≠ 8 ∧ hdrStep p s = raise .unsupportedFormat s) ∨
    (128 ≤ s.lenV.toNat ∧ s.rawV 3 = 8 ∧ hdrStep p s = headerLatched p s) := by
  by_cases h₁ : s.lenV.toNat < 128
  · exact .inl ⟨h₁, by simp [hdrStep, hdrLenStep, h₁]⟩
  · have h₀ : hdrStep p s = hdrCheckStep (unpackStep p s) := by
      simp [hdrStep, hdrLenStep, h₁, hs]
    have hb : (unpackStep p s).bppV = s.rawV 3 := rfl
    by_cases h₂ : s.rawV 3 = 8
    · refine .inr (.inr ⟨Nat.le_of_not_lt h₁, h₂, ?_⟩)
      rw [h₀]
      simp [hdrCheckStep, hb, h₂, headerLatched]
    · refine .inr (.inl ⟨Nat.le_of_not_lt h₁, h₂, ?_⟩)
      rw [h₀, hdrCheckStep, hb, Config.bppOk_eq, if_pos h₂]
      rfl

/-- `START` in `IDLE` (R192). -/
theorem startStep_cases (p : Config.Params) (s : State) :
    (p.rawCap < s.lenV.toNat ∧ startStep p s = raise .allocationFailure s) ∨
      (s.lenV.toNat ≤ p.rawCap ∧ startStep p s = { s with stage := .hdr }) := by
  by_cases h : p.rawCap < s.lenV.toNat
  · exact .inl ⟨h, if_pos h⟩
  · exact .inr ⟨Nat.le_of_not_lt h, if_neg h⟩

/-- The bytes a token fetch finds (R73, R157). -/
theorem fetchBytes_cases (s : State) (h : s.rpV.toNat < endOff s) :
    (s.rpV.toNat + 1 < endOff s ∧ fetchBytes s = [s.rawV s.rpV.toNat, s.rawV (s.rpV.toNat + 1)]) ∨
      (s.rpV.toNat + 1 = endOff s ∧ fetchBytes s = [s.rawV s.rpV.toNat]) := by
  by_cases h₁ : s.rpV.toNat + 1 < endOff s
  · exact .inl ⟨h₁, by simp [fetchBytes, h₁]⟩
  · exact .inr ⟨by omega, by simp [fetchBytes, h₁, h]⟩

/-- A dangling marker acts as `RUN` does there, whatever its value byte would be (R157). -/
theorem danglingRun_eq (n : BitVec 6) (v : Byte) (s : State) (h : fetchEnabled s) (he : endOff s ≤ s.rpV.toNat + 1) :
    danglingRun s = execRun n v s := by
  rw [execRun, whenEnabled_of h, runStep, if_pos he, danglingRun]

end Sys2Proof.Machine
end

