-- ==== Sys2Proof/Laws/PerInstr.lean ====
section
/-! SUPPORT. Statements for all instructions, made per instruction. -/

namespace Sys2Proof.Laws.TableRow

/-- The first byte of a well-formed instruction carries its opcode-table row's pattern under the row's mask, and an
instruction whose row has no pattern has no bytes (R115). -/
def Statement (i : Instr) : Prop :=
  i.wf = true →
    match i.row with
    | some r => ∃ b bs, encode i = b :: bs ∧ r.hit b = true
    | none => encode i = []

/-- The three literal rows hold exactly their operand ranges. -/
theorem literal_rows : ∀ v : Byte, (v.toNat < 64 → rowLit00.hit v = true) ∧
    (64 ≤ v.toNat ∧ v.toNat < 128 → rowLit01.hit v = true) ∧
    (128 ≤ v.toNat ∧ v.toNat < 192 → rowLit10.hit v = true) := by decide +kernel

theorem lit00 (v : Byte) : Statement (.lit00 v) := fun h =>
  ⟨v, [], rfl, (literal_rows v).1 (of_decide_eq_true h)⟩

theorem lit01 (v : Byte) : Statement (.lit01 v) := fun h =>
  ⟨v, [], rfl, (literal_rows v).2.1 (of_decide_eq_true h)⟩

theorem lit10 (v : Byte) : Statement (.lit10 v) := fun h =>
  ⟨v, [], rfl, (literal_rows v).2.2 (of_decide_eq_true h)⟩

theorem litC0 : Statement .litC0 := fun _ => ⟨0xC0, [], rfl, by decide⟩

theorem run (n : BitVec 6) (v : Byte) : Statement (.run n v) := fun _ =>
  ⟨runMarker n, [v], rfl, by
    have h : ∀ n : BitVec 6, rowRun.hit (runMarker n) = true := by decide +kernel
    exact h n⟩

theorem palQ (v : Byte) : Statement (.palQ v) := fun _ => ⟨v, [], rfl, by simp [TokenRow.hit, rowPalQ]⟩

theorem runRep : Statement .runRep := fun _ => rfl
theorem rleOpen : Statement .rleOpen := fun _ => rfl
theorem rleClose : Statement .rleClose := fun _ => rfl
theorem hdr : Statement .hdr := fun _ => rfl
theorem hdrLen : Statement .hdrLen := fun _ => rfl
theorem hdrUnpack : Statement .hdrUnpack := fun _ => rfl
theorem hdrCheck : Statement .hdrCheck := fun _ => rfl
theorem palClose : Statement .palClose := fun _ => rfl
theorem start : Statement .start := fun _ => rfl
theorem clear : Statement .clear := fun _ => rfl
theorem writeLen (n : BitVec 32) : Statement (.writeLen n) := fun _ => rfl
theorem writeRaw (a : Nat) (b : Byte) : Statement (.writeRaw a b) := fun _ => rfl
theorem readStatus : Statement .readStatus := fun _ => rfl
theorem readHdr : Statement .readHdr := fun _ => rfl
theorem readPix (a : Nat) : Statement (.readPix a) := fun _ => rfl
theorem readPal (a : Nat) : Statement (.readPal a) := fun _ => rfl
theorem packPix (j : Nat) : Statement (.packPix j) := fun _ => rfl
theorem packPal (k : Nat) : Statement (.packPal k) := fun _ => rfl

end Sys2Proof.Laws.TableRow
end

