-- ==== Sys2Proof/Laws/Step.lean ====
section
/-! SUPPORT. What a step can do, said once: CORE's turn as a relation with one constructor per row of R154 and R197,
and a step by the head of HOST's schedule. -/

namespace Sys2Proof.Machine

/-- CORE's turn from `s` to `t` (R154, R181, R182, R197). -/
inductive CoreStep (s : State) : State → Prop
  | rest (h : s.stage.busy = false) : CoreStep s s
  | hdr (h : s.stage = .hdr) : CoreStep s (hdrStep Config.params s)
  | opening (h : s.stage = .opening) : CoreStep s (openStep Config.params s)
  | copy (h : s.stage = .rle) (hr : s.rcV ≠ 0) : CoreStep s (runRepStep s)
  | lit (h : s.stage = .rle) (hr : s.rcV = 0) (hp : s.rpV.toNat < endOff s)
      (hb : (s.rawV s.rpV.toNat).toNat ≤ 192) : CoreStep s (litStep (s.rawV s.rpV.toNat) s)
  | run (h : s.stage = .rle) (hr : s.rcV = 0) (hp : s.rpV.toNat + 1 < endOff s)
      (hb : 192 < (s.rawV s.rpV.toNat).toNat) :
      CoreStep s { s with
        rc := some (runCount (s.rawV s.rpV.toNat)), rv := some (s.rawV (s.rpV.toNat + 1)), rp := some (s.rpV + 2) }
  | dangling (h : s.stage = .rle) (hr : s.rcV = 0) (hp : s.rpV.toNat + 1 = endOff s)
      (hb : 192 < (s.rawV s.rpV.toNat).toNat) : CoreStep s (raise .truncatedFile s)
  | close (h : s.stage = .rle) (hr : s.rcV = 0) (hp : s.rpV.toNat = endOff s) : CoreStep s (closeStep s)
  | quant (h : s.stage = .pal) (hi : s.piV.toNat < 768) :
      CoreStep s (palStep (s.rawV (paletteOff s s.piV.toNat)) s)
  | finish (h : s.stage = .pal) (hi : s.piV.toNat = 768) : CoreStep s (palCloseStep s)

/-- The dispatch of a literal. -/
theorem exec_literal (b : Byte) (h : b.toNat ≤ 192) (s : State) (hs : fetchEnabled s) :
    exec (literal b) s = .next (litStep b s) := by
  rcases (literal_cases b h).1 with e | e | e | ⟨e, hb⟩
  · rw [e]; exact whenEnabled_of hs
  · rw [e]; exact whenEnabled_of hs
  · rw [e]; exact whenEnabled_of hs
  · rw [e, hb]; exact whenEnabled_of hs

theorem coreTurn_rest (s : State) (h : s.stage.busy = false) : coreTurn s = .next s := by
  cases hs : s.stage <;> simp [coreTurn, selectCore, hs, Stage.busy] at h ⊢

theorem coreTurn_hdr (s : State) (h : s.stage = .hdr) : coreTurn s = .next (hdrStep Config.params s) := by
  simp [coreTurn, selectCore, h, exec, execHdr, whenEnabled]

theorem coreTurn_opening (s : State) (h : s.stage = .opening) : coreTurn s = .next (openStep Config.params s) := by
  simp [coreTurn, selectCore, h, exec, execRleOpen, whenEnabled]

theorem coreTurn_copy (s : State) (h : s.stage = .rle) (hr : s.rcV ≠ 0) : coreTurn s = .next (runRepStep s) := by
  have e : selectCore s = .op .runRep := by
    simp only [selectCore, h, selectRle]
    exact if_pos hr
  simp only [coreTurn, e]
  exact whenEnabled_of ⟨h, hr⟩

theorem selectCore_fetch (s : State) (h : fetchEnabled s) :
    selectCore s = selectDecoded (decode .compressed (fetchBytes s)) := by
  simp [selectCore, h.1, selectRle, h.2.1, h.2.2]

theorem selectCore_literal (s : State) (h : fetchEnabled s) (hb : (s.rawV s.rpV.toNat).toNat ≤ 192) :
    selectCore s = .op (literal (s.rawV s.rpV.toNat)) := by
  rw [selectCore_fetch s h]
  rcases fetchBytes_cases s h.2.2 with ⟨_, e⟩ | ⟨_, e⟩ <;>
    rw [e, decode, decodeToken_literal _ _ hb] <;> rfl

theorem selectCore_run (s : State) (h : fetchEnabled s) (hp : s.rpV.toNat + 1 < endOff s)
    (hb : 192 < (s.rawV s.rpV.toNat).toNat) :
    selectCore s = .op (.run (runCount (s.rawV s.rpV.toNat)) (s.rawV (s.rpV.toNat + 1))) := by
  rw [selectCore_fetch s h]
  rcases fetchBytes_cases s h.2.2 with ⟨_, e⟩ | ⟨e', _⟩
  · rw [e, decode, decodeToken_run _ _ _ hb]; rfl
  · omega

theorem selectCore_dangling (s : State) (h : fetchEnabled s) (hp : s.rpV.toNat + 1 = endOff s)
    (hb : 192 < (s.rawV s.rpV.toNat).toNat) :
    selectCore s = .reject (.danglingMarker (runCount (s.rawV s.rpV.toNat))) := by
  rw [selectCore_fetch s h]
  rcases fetchBytes_cases s h.2.2 with ⟨e', _⟩ | ⟨_, e⟩
  · omega
  · rw [e, decode, decodeToken_dangling _ hb]; rfl

theorem selectCore_close (s : State) (h : s.stage = .rle) (hr : s.rcV = 0) (hp : s.rpV.toNat = endOff s) :
    selectCore s = .op .rleClose := by
  simp [selectCore, h, selectRle, hr, hp]

theorem coreTurn_lit (s : State) (h : fetchEnabled s) (hb : (s.rawV s.rpV.toNat).toNat ≤ 192) :
    coreTurn s = .next (litStep (s.rawV s.rpV.toNat) s) := by
  simp only [coreTurn, selectCore_literal s h hb]
  exact exec_literal _ hb s h

theorem coreTurn_run (s : State) (h : fetchEnabled s) (hp : s.rpV.toNat + 1 < endOff s)
    (hb : 192 < (s.rawV s.rpV.toNat).toNat) :
    coreTurn s = .next { s with
      rc := some (runCount (s.rawV s.rpV.toNat)), rv := some (s.rawV (s.rpV.toNat + 1)), rp := some (s.rpV + 2) } := by
  simp only [coreTurn, selectCore_run s h hp hb, exec, execRun, whenEnabled_of h, runStep]
  rw [if_neg (by omega)]

theorem coreTurn_dangling (s : State) (h : fetchEnabled s) (hp : s.rpV.toNat + 1 = endOff s)
    (hb : 192 < (s.rawV s.rpV.toNat).toNat) : coreTurn s = .next (raise .truncatedFile s) := by
  simp only [coreTurn, selectCore_dangling s h hp hb, rejected, danglingRun]

theorem coreTurn_close (s : State) (h : s.stage = .rle) (hr : s.rcV = 0) (hp : s.rpV.toNat = endOff s) :
    coreTurn s = .next (closeStep s) := by
  simp only [coreTurn, selectCore_close s h hr hp]
  exact whenEnabled_of ⟨h, hr, hp⟩

theorem coreTurn_quant (s : State) (h : s.stage = .pal) (hi : s.piV.toNat < 768) :
    coreTurn s = .next (palStep (s.rawV (paletteOff s s.piV.toNat)) s) := by
  simp [coreTurn, selectCore, h, selectPal, hi, decode, paletteBytes, decodePalette, selectDecoded, exec, execPalQ,
    whenEnabled]

theorem coreTurn_finish (s : State) (h : s.stage = .pal) (hi : s.piV.toNat = 768) :
    coreTurn s = .next (palCloseStep s) := by
  simp [coreTurn, selectCore, h, selectPal, hi, exec, execPalClose, whenEnabled]

theorem coreTurn_of_coreStep {s t : State} (h : CoreStep s t) : coreTurn s = .next t := by
  cases h with
  | rest h => exact coreTurn_rest s h
  | hdr h => exact coreTurn_hdr s h
  | opening h => exact coreTurn_opening s h
  | copy h hr => exact coreTurn_copy s h hr
  | lit h hr hp hb => exact coreTurn_lit s ⟨h, hr, hp⟩ hb
  | run h hr hp hb => exact coreTurn_run s ⟨h, hr, by omega⟩ hp hb
  | dangling h hr hp hb => exact coreTurn_dangling s ⟨h, hr, by omega⟩ hp hb
  | close h hr hp => exact coreTurn_close s h hr hp
  | quant h hi => exact coreTurn_quant s h hi
  | finish h hi => exact coreTurn_finish s h hi

/-- CORE's turn answers a next state exactly by one of the relation's cases. -/
theorem coreTurn_next_iff {s t : State} : coreTurn s = .next t ↔ CoreStep s t := by
  refine ⟨fun ht => ?_, coreTurn_of_coreStep⟩
  have close_of : ∀ u, CoreStep s u → CoreStep s t := fun u hu => by
    have := coreTurn_of_coreStep hu
    rw [ht] at this
    injection this with e
    exact e ▸ hu
  cases hs : s.stage with
  | idle => exact close_of _ (.rest (by rw [hs]; rfl))
  | done => exact close_of _ (.rest (by rw [hs]; rfl))
  | fault => exact close_of _ (.rest (by rw [hs]; rfl))
  | hdr => exact close_of _ (.hdr hs)
  | opening => exact close_of _ (.opening hs)
  | rle =>
    by_cases hr : s.rcV = 0
    · rcases Nat.lt_trichotomy s.rpV.toNat (endOff s) with hp | hp | hp
      · by_cases hb : (s.rawV s.rpV.toNat).toNat ≤ 192
        · exact close_of _ (.lit hs hr hp hb)
        · rcases Nat.lt_or_ge (s.rpV.toNat + 1) (endOff s) with h1 | h1
          · exact close_of _ (.run hs hr h1 (by omega))
          · exact close_of _ (.dangling hs hr (by omega) (by omega))
      · exact close_of _ (.close hs hr hp)
      · have : ¬ s.rpV.toNat < endOff s := by omega
        have h2 : ¬ s.rpV.toNat = endOff s := by omega
        simp [coreTurn, selectCore, hs, selectRle, hr, this, h2] at ht
    · exact close_of _ (.copy hs hr)
  | pal =>
    rcases Nat.lt_trichotomy s.piV.toNat 768 with hp | hp | hp
    · exact close_of _ (.quant hs hp)
    · exact close_of _ (.finish hs hp)
    · have : ¬ s.piV.toNat < 768 := by omega
      have h2 : ¬ s.piV.toNat = 768 := by omega
      simp [coreTurn, selectCore, hs, selectPal, this, h2] at ht

/-- A step by the head of the schedule. -/
theorem step_cases {s t : State} (h : step s = .next t) :
    (s.inputs = [] ∧ CoreStep s t) ∨
      ∃ e es, s.inputs = e :: es ∧
        ((e = .core ∧ CoreStep { s with inputs := es } t) ∨
          (∃ m, e = .host m ∧ exec m.toInstr { s with inputs := es } = .next t) ∨
          (e = .reset ∧ t = release { s with inputs := es })) := by
  cases hi : s.inputs with
  | nil => exact .inl ⟨rfl, coreTurn_next_iff.mp (by simpa [step, hi] using h)⟩
  | cons e es =>
    refine .inr ⟨e, es, rfl, ?_⟩
    simp only [step, hi] at h
    cases e with
    | core => exact .inl ⟨rfl, coreTurn_next_iff.mp h⟩
    | host m => exact .inr (.inl ⟨m, rfl, h⟩)
    | reset => exact .inr (.inr ⟨rfl, by injection h with h; exact h.symm⟩)

/-- `steps` is the host's `run` of this machine. -/
theorem core_run (k : Nat) (s : State) : Sys2Proof.core.run k s = steps k s := by
  induction k generalizing s with
  | zero => rfl
  | succ k ih =>
    cases hs : step s with
    | next t =>
      have hc : Sys2Proof.core.step s = .next t := hs
      simp only [Host.Core.run, hc, steps, hs]
      exact ih t
    | fault r =>
      have hc : Sys2Proof.core.step s = .fault r := hs
      simp only [Host.Core.run, hc, steps, hs]
      rfl
    | refused r =>
      have hc : Sys2Proof.core.step s = .refused r := hs
      simp only [Host.Core.run, hc, steps, hs]
      rfl

/-- The first of several steps. -/
theorem steps_succ {s t : State} (h : step s = .next t) (k : Nat) : steps (k + 1) s = steps k t := by
  rw [steps, h]

/-- Steps in two parts. -/
theorem steps_add {j : Nat} {s t : State} (h : steps j s = .next t) (k : Nat) : steps (j + k) s = steps k t := by
  induction j generalizing s with
  | zero =>
    injection h with e
    rw [Nat.zero_add, e]
  | succ j ih =>
    rw [Nat.succ_add]
    rw [steps] at h ⊢
    cases hs : step s with
    | next u => rw [hs] at h; exact ih h
    | fault r => rw [hs] at h; cases h
    | refused r => rw [hs] at h; cases h

/-- What a move of HOST can do (R190 to R196): it always answers a next state. -/
inductive HostStep (s : State) : HostMove → State → Prop
  | start (h : s.stage = .idle) : HostStep s .start (startStep Config.params s)
  | clear (h : s.stage = .done ∨ s.stage = .fault) : HostStep s .clear (release s)
  | writeLen (n : BitVec 32) (h : s.stage = .idle) : HostStep s (.writeLen n) { s with len := some n }
  | writeRaw (a : Nat) (b : Byte) (h : s.stage = .idle) (ha : a < Config.params.rawCap) :
      HostStep s (.writeRaw a b) { s with raw := s.raw.write a b }
  | ignored (m : HostMove) : HostStep s m s
  | answered (m : HostMove) (r : Response) : HostStep s m (respond r s)
  | answeredFree (m : HostMove) (r : Response) : HostStep s m (respondFree r s)

theorem host_step (m : HostMove) (s : State) : ∃ t, exec m.toInstr s = .next t ∧ HostStep s m t := by
  cases m with
  | start =>
    by_cases h : s.stage = .idle
    · exact ⟨_, by simp only [HostMove.toInstr, exec, execStart, h, if_true], .start h⟩
    · exact ⟨s, by simp [HostMove.toInstr, exec, execStart, h], .ignored _⟩
  | clear =>
    by_cases h : s.stage = .done ∨ s.stage = .fault
    · exact ⟨_, by simp only [HostMove.toInstr, exec, execClear, h, if_true], .clear h⟩
    · exact ⟨s, by simp only [HostMove.toInstr, exec, execClear, h, if_false], .ignored _⟩
  | writeLen n =>
    by_cases h : s.stage = .idle
    · exact ⟨_, by simp only [HostMove.toInstr, exec, execWriteLen, h, if_true], .writeLen n h⟩
    · exact ⟨s, by simp [HostMove.toInstr, exec, execWriteLen, h], .ignored _⟩
  | writeRaw a b =>
    by_cases h : s.stage = .idle ∧ a < Config.params.rawCap
    · exact ⟨_, by simp only [HostMove.toInstr, exec, execWriteRaw, writeRawStep, h, and_self, if_true],
        .writeRaw a b h.1 h.2⟩
    · exact ⟨s, by simp only [HostMove.toInstr, exec, execWriteRaw, writeRawStep, h, if_false], .ignored _⟩
  | readStatus => exact ⟨_, rfl, .answered _ _⟩
  | readHdr =>
    by_cases h : s.stage = .done
    · exact ⟨_, by simp only [HostMove.toInstr, exec, execReadHdr, h, if_true]; rfl, .answered _ _⟩
    · exact ⟨_, by simp only [HostMove.toInstr, exec, execReadHdr, h, if_false]; rfl, .answeredFree _ _⟩
  | readPix a =>
    by_cases h : s.stage = .done ∧ a < s.pixcntV.toNat
    · exact ⟨_, by simp only [HostMove.toInstr, exec, execReadPix, h, and_self, if_true]; rfl, .answered _ _⟩
    · exact ⟨_, by simp only [HostMove.toInstr, exec, execReadPix, h, if_false]; rfl, .answeredFree _ _⟩
  | readPal a =>
    by_cases h : s.stage = .done ∧ a < Config.palSize
    · exact ⟨_, by simp only [HostMove.toInstr, exec, execReadPal, h, and_self, if_true]; rfl, .answered _ _⟩
    · exact ⟨_, by simp only [HostMove.toInstr, exec, execReadPal, h, if_false]; rfl, .answeredFree _ _⟩
  | packPix j =>
    by_cases h : s.stage = .done ∧ 2 * j + 1 < s.pixcntV.toNat
    · exact ⟨_, by simp only [HostMove.toInstr, exec, execPackPix, h, and_self, if_true]; rfl, .answered _ _⟩
    · exact ⟨_, by simp only [HostMove.toInstr, exec, execPackPix, h, if_false]; rfl, .answeredFree _ _⟩
  | packPal k =>
    by_cases h : s.stage = .done ∧ k < Config.palEntries
    · exact ⟨_, by simp only [HostMove.toInstr, exec, execPackPal, h, and_self, if_true]; rfl, .answered _ _⟩
    · exact ⟨_, by simp only [HostMove.toInstr, exec, execPackPal, h, if_false]; rfl, .answeredFree _ _⟩

theorem hostStep_of_exec {m : HostMove} {s t : State} (h : exec m.toInstr s = .next t) : HostStep s m t := by
  obtain ⟨u, hu, hc⟩ := host_step m s
  rw [h] at hu
  injection hu with e
  exact e ▸ hc

end Sys2Proof.Machine
end

