-- ==== Sys2Proof/Tests/Slice0.lean ====
section
/-! SUPPORT. The model's own tests. Expected results come from spec/95_test_vectors.md (V, S and P numbers), from the
encodings of spec/30_encoding.md written bit by bit, or from the rule named. The witnesses at the end show, for every
statement with hypotheses, a state and operands that meet them. -/

namespace Sys2Proof.Tests

open Sys2Proof Sys2Proof.Machine

/-! ## Well-formedness: an ill-formed term for each check -/

theorem test_wf_refuses_lit00 : (Instr.lit00 64).wf = false ∧ (Instr.lit00 63).wf = true := by decide
theorem test_wf_refuses_lit01 :
    (Instr.lit01 63).wf = false ∧ (Instr.lit01 128).wf = false ∧ (Instr.lit01 64).wf = true := by decide
theorem test_wf_refuses_lit10 :
    (Instr.lit10 127).wf = false ∧ (Instr.lit10 192).wf = false ∧ (Instr.lit10 191).wf = true := by decide
theorem test_wf_refuses_run_of_zero : (Instr.run 0 7).wf = false ∧ (Instr.run 63 7).wf = true := by decide
theorem test_wf_refuses_readPal : (Instr.readPal 768).wf = false ∧ (Instr.readPal 767).wf = true := by decide
theorem test_wf_refuses_packPal : (Instr.packPal 256).wf = false ∧ (Instr.packPal 255).wf = true := by decide

/-! ## Decoding: words written bit by bit (R104, R106, R110) -/

theorem test_decode_lit00 : decode .compressed [0b00111111#8] = .ok (.lit00 63, []) := by decide
theorem test_decode_lit01 : decode .compressed [0b01000000#8, 0b11111111#8] = .ok (.lit01 64, [0b11111111#8]) := by decide
theorem test_decode_lit10 : decode .compressed [0b10111111#8] = .ok (.lit10 191, []) := by decide
theorem test_decode_litC0 : decode .compressed [0b11000000#8, 0b00000111#8] = .ok (.litC0, [0b00000111#8]) := by decide
theorem test_decode_run_shortest : decode .compressed [0b11000001#8, 0b11001000#8] = .ok (.run 1 200, []) := by decide
theorem test_decode_run_longest : decode .compressed [0b11111111#8, 0b00000000#8] = .ok (.run 63 0, []) := by decide
theorem test_decode_palQ : decode .palette [0b11000001#8, 0b00000001#8] = .ok (.palQ 193, [0b00000001#8]) := by decide
/-- R111: a marker in the region's last byte. -/
theorem test_decode_dangling : decode .compressed [0b11000011#8] = .error (.danglingMarker 3) := by decide
theorem test_decode_nothing : decode .compressed [] = .error .noByte ∧ decode .palette [] = .error .noByte := by decide
/-- The region, not the byte, decides (R100): 0xC3 is a marker or a palette byte. -/
theorem test_decode_by_region :
    decode .compressed [0xC3, 7] = .ok (.run 3 7, []) ∧ decode .palette [0xC3, 7] = .ok (.palQ 0xC3, [7]) := by decide

/-! ## One step on small states -/

/-- The state after, where there is one. -/
def after (r : Result) : Option State :=
  match r with
  | .next t => some t
  | .fault _ => none
  | .refused _ => none

/-- A machine in the given stage that holds nothing else. -/
def at_ (g : Stage) : State := { State.reset with stage := g, err := if g = .fault then .corruptData else .none }

/-- The state before V20 to V39: `END = 300`, `PIXCNT = 100`. -/
def tok (rp wp : Nat) (cells : Memory) : State :=
  { at_ .rle with
    len := some 1068, rp := some (BitVec.ofNat 32 rp), wp := some (BitVec.ofNat 31 wp), rc := some 0
    pixcnt := some 100, raw := cells }

/-- `tok` inside a run of `n` further copies of 9. -/
def mid (wp : Nat) (n : BitVec 6) : State := { tok 202 wp [] with rc := some n, rv := some 9 }

/-- The default offsets (R8) and capacities that a vector needs. -/
def prm (rawCap pixCap : Nat) : Config.Params := ⟨rawCap, pixCap, 8, 10⟩

/-- A header as in V1 to V9. -/
def hd (len : BitVec 32) (bpp xl xh yl yh : Byte) : State :=
  { at_ .hdr with len := some len, raw := [(3, bpp), (8, xl), (9, xh), (10, yl), (11, yh)] }

/-- The state before `RLE.OPEN`, as in V10 to V16. -/
def op (len : BitVec 32) (w h : BitVec 17) : State :=
  { at_ .opening with len := some len, bpp := some 8, width := some w, height := some h }

/-- A palette stage of a 904-byte file. -/
def pl (i : BitVec 10) (cells : Memory) : State :=
  { at_ .pal with len := some 904, pi := some i, raw := cells }

/-- What V20 to V39 list. -/
structure TokView where
  stage : Stage
  err : ErrKind
  wp : Option (BitVec 31)
  rp : Option (BitVec 32)
  rc : Option (BitVec 6)
  pix : Memory
  deriving DecidableEq, Repr

/-- What V20 to V39 list, of a state. -/
def tokView (t : State) : TokView := ⟨t.stage, t.err, t.wp, t.rp, t.rc, t.pix⟩

/-- V24. -/
theorem test_lit00 : (after (coreTurn (tok 200 10 [(200, 0x00)]))).map tokView =
    some ⟨.rle, .none, some 11, some 201, some 0, [(10, 0)]⟩ := by decide +kernel
/-- V30: a full buffer, nothing written. -/
theorem test_lit00_full : (after (coreTurn (tok 200 100 [(200, 0x05)]))).map tokView =
    some ⟨.fault, .corruptData, none, none, none, []⟩ := by decide +kernel
/-- V27. -/
theorem test_lit01 : (after (coreTurn (tok 200 10 [(200, 0x40)]))).map tokView =
    some ⟨.rle, .none, some 11, some 201, some 0, [(10, 64)]⟩ := by decide +kernel
/-- V25. -/
theorem test_lit10 : (after (coreTurn (tok 200 10 [(200, 0xBF)]))).map tokView =
    some ⟨.rle, .none, some 11, some 201, some 0, [(10, 191)]⟩ := by decide +kernel
/-- V26. -/
theorem test_lit10_lowest : (after (coreTurn (tok 200 10 [(200, 0x80)]))).map tokView =
    some ⟨.rle, .none, some 11, some 201, some 0, [(10, 128)]⟩ := by decide +kernel
/-- V20, S2: 192 is a literal. -/
theorem test_litC0 : (after (coreTurn (tok 200 10 [(200, 0xC0)]))).map tokView =
    some ⟨.rle, .none, some 11, some 201, some 0, [(10, 192)]⟩ := by decide +kernel
/-- V23: the value byte is not read as a marker. -/
theorem test_run : (after (coreTurn (tok 200 10 [(200, 0xC1), (201, 0xC1)]))).map
    (fun t => (t.rc, t.rv, t.rp, t.wp)) = some (some 1, some 193, some 202, some 10) := by decide +kernel
/-- V34: a marker in the region's last byte with a full buffer; the palette byte behind it is no value byte. -/
theorem test_run_dangling : (after (coreTurn (tok 299 100 [(299, 0xC3), (300, 7)]))).map tokView =
    some ⟨.fault, .truncatedFile, none, none, none, []⟩ := by decide +kernel
/-- V28, its second copy: `rc` reaches 0. -/
theorem test_runRep : (after (coreTurn (mid 11 1))).map tokView =
    some ⟨.rle, .none, some 12, some 202, some 0, [(11, 9)]⟩ := by decide +kernel
/-- V29, its fourth copy. -/
theorem test_runRep_full : (after (coreTurn (mid 100 2))).map tokView =
    some ⟨.fault, .corruptData, none, none, none, []⟩ := by decide +kernel
/-- V15: 32768 x 32768 is exact. -/
theorem test_rleOpen_largest : (fun t : State => (t.stage, t.pixcnt, t.rp, t.wp, t.rc))
    (openStep (prm 1000 (2 ^ 30)) (op 1000 32768 32768)) =
      (.rle, some 1073741824, some 128, some 0, some 0) := by decide +kernel
/-- V11 and V16: one pixel too many; the length is tested before the dimensions. -/
theorem test_rleOpen_faults :
    (openStep (prm 1000 7) (op 904 4 2)).err = .allocationFailure ∧
      (openStep (prm 1000 100) (op 895 0 5)).err = .truncatedFile := by decide +kernel
/-- V36. -/
theorem test_rleClose : (after (coreTurn (tok 300 100 []))).map (fun t => (t.stage, t.pi)) =
    some (.pal, some 0) := by decide +kernel
/-- V37. -/
theorem test_rleClose_underfilled : (after (coreTurn (tok 300 99 []))).map tokView =
    some ⟨.fault, .truncatedFile, none, none, none, []⟩ := by decide +kernel
/-- V1. -/
theorem test_hdr : (fun t : State => (t.stage, t.bpp, t.xmax, t.ymax, t.width, t.height))
    (hdrStep (prm 1000 100) (hd 904 8 3 0 1 0)) =
      (.opening, some 8, some 3, some 1, some 4, some 2) := by decide +kernel
/-- V9: the bit depth is tested before the 896 test. -/
theorem test_hdr_bad_depth : (hdrStep (prm 1000 100) (hd 128 4 3 0 1 0)).err = .unsupportedFormat := by decide +kernel
/-- V8. -/
theorem test_hdrLen : (after (exec .hdrLen (hd 127 8 3 0 1 0))).map (·.err) = some .truncatedFile ∧
    (after (exec .hdrLen (hd 128 8 3 0 1 0))).map (·.stage) = some .hdr := by decide +kernel
/-- V3: no wrap. -/
theorem test_hdrUnpack : (fun t : State => (t.xmax, t.width.map (·.toInt), t.height.map (·.toInt)))
    (unpackStep (prm 1000 100) (hd 1000 8 0xFF 0x7F 0 0)) = (some 32767, some 32768, some 1) := by decide +kernel
/-- V5: both negative. -/
theorem test_hdrUnpack_negative : (fun t : State => (t.xmax.map (·.toInt), t.width.map (·.toInt), t.height.map (·.toInt)))
    (unpackStep (prm 1000 100) (hd 1000 8 0 0x80 0 0x80)) =
      (some (-32768), some (-32767), some (-32767)) := by decide +kernel
/-- V7 and R135. -/
theorem test_hdrCheck :
    (after (exec .hdrCheck { at_ .hdr with bpp := some 9 })).map (fun t => (t.stage, t.err)) =
        some (.fault, .unsupportedFormat) ∧
      (after (exec .hdrCheck { at_ .hdr with bpp := some 8 })).map (fun t => (t.stage, t.err)) =
        some (.opening, .none) := by decide +kernel
/-- V44, with V40's position vector: palette byte 5 of a 904-byte file is `RAW[141]`. -/
theorem test_palQ : (after (coreTurn (pl 5 [(141, 12)]))).map (fun t => (t.pi, t.pal)) =
    some (some 6, [(5, 1)]) := by decide +kernel
/-- V42. -/
theorem test_palQ_largest : (after (exec (.palQ 252) (pl 767 []))).map (fun t => (t.pi, t.pal)) =
    some (some 768, [(767, 31)]) := by decide +kernel
/-- R182. -/
theorem test_palClose : (after (coreTurn (pl 768 []))).map (·.stage) = some .done := by decide +kernel
/-- R180: the stand-alone quantizer's own check, at the longest file too short for the block and at the shortest that
holds it (R181's corner 15 -> 1). -/
theorem test_quantize_check :
    quantizeAll (fun _ => 15) 767 = .error .truncatedFile ∧
      quantizeAll (fun _ => 15) 768 = .ok (List.replicate 768 1) := by decide +kernel
/-- V60 and its neighbour. -/
theorem test_start :
    (fun t : State => (t.stage, t.err)) (startStep (prm 904 100) { at_ .idle with len := some 905 }) =
        (.fault, .allocationFailure) ∧
      (startStep (prm 904 100) { at_ .idle with len := some 904 }).stage = .hdr := by decide +kernel
/-- R196: `START` outside `IDLE` is ignored. -/
theorem test_start_ignored : after (exec .start (at_ .done)) = some (at_ .done) := by decide +kernel
/-- V81. -/
theorem test_clear : (after (exec .clear { at_ .fault with len := some 899, raw := [(128, 1)] })).map
    (fun t => (t.stage, t.err, t.len, t.raw)) = some (.idle, .none, none, []) := by decide +kernel
/-- R191. -/
theorem test_writeLen : (after (exec (.writeLen 904) State.reset)).map (·.len) = some (some 904) := by decide +kernel
/-- R191, R196: the last cell, and the first index beyond the memory. -/
theorem test_writeRaw :
    (writeRawStep (prm 904 100) 903 7 State.reset).raw = [(903, 7)] ∧
      (writeRawStep (prm 904 100) 904 7 State.reset).raw = [] := by decide +kernel
/-- V82: ignored while BUSY. -/
theorem test_writeRaw_ignored :
    after (exec (.writeRaw 130 0xFF) (tok 200 10 [])) = some (tok 200 10 []) := by decide +kernel
/-- V80. -/
theorem test_readStatus : (after (exec .readStatus State.reset)).map (·.port) =
    some (some (.status .idle .none false false false)) := by decide +kernel

/-- The outputs of P1 in `DONE`, with the first six palette cells of S6. -/
def dn : State :=
  { at_ .done with
    len := some 904, bpp := some 8, xmax := some 3, ymax := some 1, width := some 4, height := some 2
    pixcnt := some 8, wp := some 8
    pix := [(0, 7), (1, 7), (2, 7), (3, 5), (4, 200), (5, 192), (6, 255), (7, 255)]
    pal := [(0, 31), (1, 0), (2, 16), (3, 2), (4, 2), (5, 3)] }

/-- P1. -/
theorem test_readHdr : (after (exec .readHdr dn)).map (·.port) = some (some (.hdr ⟨8, 3, 1, 4, 2, 8⟩)) := by decide +kernel
/-- P1. -/
theorem test_readPix : (after (exec (.readPix 4) dn)).map (·.port) = some (some (.pix 200)) := by decide +kernel
/-- S6. -/
theorem test_readPal : (after (exec (.readPal 2) dn)).map (·.port) = some (some (.pal 16)) := by decide +kernel
/-- V70: the third word. -/
theorem test_packPix : (after (exec (.packPix 2) dn)).map (·.port) = some (some (.word 0xC0C8)) := by decide +kernel
/-- S6: the source's own example. -/
theorem test_packPix_order : packPixels 0x12 0x34 = 0x3412 := by decide
/-- S6 and V72. -/
theorem test_packPal : (after (exec (.packPal 0) dn)).map (·.port) = some (some (.word 0x401F)) ∧
    (after (exec (.packPal 1) dn)).map (·.port) = some (some (.word 0x0C42)) := by decide +kernel
/-- V71. -/
theorem test_packPal_white : packColour (31, 31, 31) = 0x7FFF := by decide

/-- V53, V57, V58, V59. -/
theorem test_decodeStream :
    decodeStream 4 [0xC2, 1, 0xC2, 2] [] = .ok [1, 1, 2, 2] ∧ decodeStream 4 [0xC5, 7] [] = .error .corruptData ∧
      decodeStream 4 [1, 2, 3, 0xC1] [] = .error .truncatedFile ∧
      decodeStream 2 [0xC1, 0xC0, 0xC0] [] = .ok [192, 192] := by decide +kernel
/-- V54: the tokens of `REP 128, 5`. -/
theorem test_repTokens : encodeAll (repTokens 128 5) = [0xFF, 5, 0xFF, 5, 0xC2, 5] := by decide +kernel
/-- R43. -/
theorem test_reset_rests : after (step State.reset) = some State.reset := by decide +kernel
/-- A table word placed after reset runs as the first instruction: `RUN 3, 7` of P1. -/
theorem test_placed_word : decodeTableWord 16 0x07C3 = some (.run 3 7) ∧
    (after (step (State.reset.withFetchWord 16 0x07C3))).map (fun t => (t.rc, t.rv, t.rp)) =
      some (some 3, some 7, some 130) := by decide +kernel

/-! ## Witnesses: the hypotheses of every statement are met together, clause by clause at its boundary

The capacities and the dimension offsets are free (log 8): what is known of them is `Config.params_ok`. A witness uses
896 for a length that fits every instance, one pixel for an image that does, and addresses from 128 on for a cell
outside the header. -/

/-- The registers of an accepted 1 x 1 file of 897 bytes whose one token is `b`. -/
def one (g : Stage) (b : Byte) : State :=
  { at_ g with
    len := some 897, bpp := some 8, xmax := some 0, ymax := some 0, width := some 1, height := some 1, raw := [(128, b)] }

/-- `RLE.OPEN` pending. -/
def wOpen : State := one .opening 5
/-- The RLE stage of that file with the read pointer at `rp` and `wp` pixels written. -/
def wRle (b : Byte) (rp : BitVec 32) (wp : Nat) : State :=
  { one .rle b with
    rp := some rp, wp := some (BitVec.ofNat 31 wp), rc := some 0, pixcnt := some 1
    pix := (List.range wp).map fun a => (a, 5) }
/-- `n` palette cells at their largest value. -/
def bright (n : Nat) : Memory := (List.range n).map fun a => (a, 31)
/-- The PAL stage of that file with `i` palette cells written. -/
def wPal (i : Nat) : State :=
  { one .pal 5 with
    wp := some 1, pixcnt := some 1, pix := [(0, 5)], pi := some (BitVec.ofNat 10 i)
    pal := bright i }
/-- The end of that file's run. -/
def wDone : State :=
  { one .done 5 with wp := some 1, pixcnt := some 1, pix := [(0, 5)], pal := bright 768 }

theorem wDone_pal : wDone.pal = bright 768 := by rw [wDone]

theorem bright_wf (n : Nat) : (bright n).wf := by
  rw [Memory.wf, bright, List.pairwise_map]
  exact List.pairwise_lt_range

theorem bright_addresses (n : Nat) : (bright n).addresses = List.range n := by
  simp [Memory.addresses, bright, Function.comp_def]

theorem one_fits (g : Stage) (b : Byte) : ∀ c ∈ (one g b).raw, c.1 < Config.params.rawCap := by
  intro c hc
  obtain ⟨⟨h, _⟩, _⟩ := Config.params_ok
  simp only [one, List.mem_singleton] at hc
  rw [hc]
  exact Nat.lt_of_lt_of_le (show 128 < 896 by decide) h

theorem wOpen_inv : wOpen.Inv := by
  refine ⟨⟨by decide, by decide, by decide⟩, by decide, ?_, ?_⟩
  · constructor <;> decide
  · refine ⟨one_fits .opening 5, fun _ => by decide, fun h => ?_, fun h => ?_, fun h => ?_, fun h => ?_, ?_⟩
    · exact absurd h (by decide)
    · exact absurd h (by decide)
    · exact absurd h (by decide)
    · exact absurd h (by decide)
    · exact fun c hc => absurd hc (by simp [wOpen, one, at_, State.reset])

/-- The RLE stage as `RLE.OPEN` leaves it. -/
theorem wRle_inv : (wRle 5 128 0).Inv := by
  refine ⟨⟨by decide, by decide, by decide⟩, by decide, ?_, ?_⟩
  · constructor <;> decide
  · refine ⟨one_fits .rle 5, fun _ => by decide, fun _ => ?_, fun _ => by decide, fun h => ?_, fun h => ?_, ?_⟩
    · exact ⟨by decide, by decide, by decide, by decide, Config.params_ok.2.1.1, by decide⟩
    · exact absurd h (by decide)
    · exact absurd h (by decide)
    · exact fun c hc => absurd hc (by simp [wRle, one, at_, State.reset])

theorem wPal_inv : (wPal 0).Inv := by
  refine ⟨⟨by decide, by decide, by decide⟩, by decide, ?_, ?_⟩
  · constructor <;> decide
  · refine ⟨one_fits .pal 5, fun _ => by decide, fun _ => ?_, fun h => ?_, fun _ => by decide, fun _ => by decide, ?_⟩
    · exact ⟨by decide, by decide, by decide, by decide, Config.params_ok.2.1.1, by decide⟩
    · exact absurd h (by decide)
    · exact fun c hc => absurd hc (by simp [wPal, bright])

theorem wDone_inv : wDone.Inv := by
  refine ⟨⟨by decide, by decide, by rw [wDone_pal]; exact bright_wf 768⟩, by decide, ?_, ?_⟩
  · refine ⟨rfl, rfl, rfl, rfl, rfl, rfl, rfl, rfl, rfl, rfl, rfl, rfl, ?_⟩
    rw [wDone_pal, bright_addresses]; rfl
  · refine ⟨one_fits .done 5, fun _ => by decide, fun _ => ?_, fun h => ?_, fun _ => by decide, fun h => ?_, ?_⟩
    · exact ⟨by decide, by decide, by decide, by decide, Config.params_ok.2.1.1, by decide⟩
    · exact absurd h (by decide)
    · exact absurd h (by decide)
    · intro c hc
      rw [wDone_pal, bright] at hc
      obtain ⟨a, _, rfl⟩ := List.mem_map.mp hc
      exact Nat.le_refl 31

theorem witness_reset_event : ({ wOpen with inputs := [.reset, .core] } : State).inputs = .reset :: [.core] := rfl

/-- Both agents' turns in FAULT. -/
theorem witness_fault_stays :
    (at_ .fault).stage = .fault ∧ (Event.core ≠ .host .clear ∧ Event.core ≠ .reset ∧
      turn .core (at_ .fault) = .next (at_ .fault)) ∧
    (Event.host .start ≠ .host .clear ∧ Event.host .start ≠ .reset ∧
      turn (.host .start) (at_ .fault) = .next (at_ .fault)) := by
  exact ⟨rfl, ⟨by decide, by decide, rfl⟩, by decide, by decide, rfl⟩

/-- The lengths 127 and 128, and the bit depths 4 and 8 (V8, V9, V1). -/
theorem witness_header_step :
    ((hd 127 8 3 0 1 0).stage = .hdr ∧ (hd 127 8 3 0 1 0).lenV.toNat < 128) ∧
    ((hd 128 4 3 0 1 0).stage = .hdr ∧ 128 ≤ (hd 128 4 3 0 1 0).lenV.toNat ∧ (hd 128 4 3 0 1 0).rawV 3 ≠ 8) ∧
    ((hd 128 8 3 0 1 0).stage = .hdr ∧ 128 ≤ (hd 128 8 3 0 1 0).lenV.toNat ∧ (hd 128 8 3 0 1 0).rawV 3 = 8) := by decide

theorem witness_header_operations :
    ({ at_ .hdr with bpp := some 9 } : State).stage = .hdr ∧ ({ at_ .hdr with bpp := some 9 } : State).bppV ≠ 8 ∧
      ({ at_ .hdr with bpp := some 8 } : State).bppV = 8 := by decide

/-- `HDR.LEN` faulting and passing. -/
theorem witness_header_three :
    (∃ t, exec .hdrLen (hd 127 8 3 0 1 0) = .next t ∧ t.stage = .fault) ∧
      (∃ t, exec .hdrLen (hd 128 8 3 0 1 0) = .next t ∧ t.stage ≠ .fault) :=
  ⟨⟨_, rfl, by decide⟩, _, rfl, by decide⟩

/-- The smallest and the largest positive dimension, and the sign boundary of a 16-bit field. -/
theorem witness_dimensions :
    1 ≤ (succExact 0).toInt ∧ (succExact 32767).toInt = 32768 ∧ (succExact 32768).toInt = -32767 := by decide

/-- Two inputs that differ in a compressed byte only. -/
theorem witness_five_bytes :
    (∀ a, a = 3 ∨ a = Config.params.offXmax ∨ a = Config.params.offXmax + 1 ∨
      a = Config.params.offYmax ∨ a = Config.params.offYmax + 1 →
      State.rawV { one .hdr 5 with raw := [(128, 6)] } a = (one .hdr 5).rawV a) ∧
    ∃ t, exec .hdr (one .hdr 5) = .next t := by
  obtain ⟨_, _, hx, hy⟩ := Config.params_ok
  refine ⟨fun a ha => ?_, _, rfl⟩
  have h : 128 ≠ a := by omega
  simp [State.rawV, one, Memory.read, h, at_, State.reset]

/-- A state before `RLE.OPEN` for each clause: 895 bytes; 896 bytes with an empty width, with an empty height, with
more pixels than any instance holds, and with one pixel. -/
theorem witness_open :
    ((op 895 1 1).stage = .opening ∧ (op 895 1 1).lenV.toNat < 896) ∧
    (896 ≤ (op 896 0 1).lenV.toNat ∧ (op 896 0 1).widthV.toInt < 1) ∧
    (896 ≤ (op 896 1 0).lenV.toNat ∧ (op 896 1 0).heightV.toInt < 1) ∧
    (896 ≤ (op 896 65535 65535).lenV.toNat ∧ 1 ≤ (op 896 65535 65535).widthV.toInt ∧
      1 ≤ (op 896 65535 65535).heightV.toInt ∧
      (Config.params.pixCap : Int) < (op 896 65535 65535).widthV.toInt * (op 896 65535 65535).heightV.toInt) ∧
    (896 ≤ (op 896 1 1).lenV.toNat ∧ 1 ≤ (op 896 1 1).widthV.toInt ∧ 1 ≤ (op 896 1 1).heightV.toInt ∧
      (op 896 1 1).widthV.toInt * (op 896 1 1).heightV.toInt ≤ Config.params.pixCap) := by
  obtain ⟨_, ⟨h₁, h₂⟩, _⟩ := Config.params_ok
  have hw : (op 896 65535 65535).widthV.toInt * (op 896 65535 65535).heightV.toInt = 4294836225 := by decide
  have hu : (op 896 1 1).widthV.toInt * (op 896 1 1).heightV.toInt = 1 := by decide
  refine ⟨by decide, by decide, by decide, ⟨by decide, by decide, by decide, ?_⟩, by decide, by decide, by decide, ?_⟩
  · rw [hw]; omega
  · rw [hu]; omega

/-- Each row of R154's table, at the boundary byte values 192 and 193 and at both ends of the region. -/
theorem witness_select :
    ((mid 10 1).stage = .rle ∧ (mid 10 1).rcV ≠ 0) ∧
    ((wRle 192 128 0).stage = .rle ∧ (wRle 192 128 0).rcV = 0 ∧ (128 : Nat) < endOff (wRle 192 128 0) ∧
      ((wRle 192 128 0).rawV 128).toNat ≤ 192) ∧
    ((tok 298 10 [(298, 193)]).rcV = 0 ∧ 298 + 1 < endOff (tok 298 10 [(298, 193)]) ∧
      192 < ((tok 298 10 [(298, 193)]).rawV 298).toNat) ∧
    ((tok 299 10 [(299, 193)]).rcV = 0 ∧ 299 + 1 = endOff (tok 299 10 [(299, 193)]) ∧
      192 < ((tok 299 10 [(299, 193)]).rawV 299).toNat) ∧
    ((tok 300 10 []).rcV = 0 ∧ (tok 300 10 []).rpV.toNat = endOff (tok 300 10 [])) := by decide

/-- A literal fetch with one free pixel left and with none, and the operand forms. -/
theorem witness_literal :
    ((tok 299 99 [(299, 192)]).stage = .rle ∧ (tok 299 99 [(299, 192)]).rcV = 0 ∧
      (tok 299 99 [(299, 192)]).rpV.toNat < endOff (tok 299 99 [(299, 192)]) ∧
      (tok 299 99 [(299, 192)]).wpV.toNat < (tok 299 99 [(299, 192)]).pixcntV.toNat) ∧
    (tok 299 100 []).pixcntV.toNat ≤ (tok 299 100 []).wpV.toNat ∧
    (Instr.litC0 = .litC0 ∧ (192 : Byte) = 192) := by decide

/-- A run fetch at the last two bytes of the region, and a marker in its last byte. -/
theorem witness_run_fetch :
    ((tok 298 10 [(298, 193), (299, 5)]).stage = .rle ∧ (tok 298 10 [(298, 193), (299, 5)]).rcV = 0 ∧
      (tok 298 10 [(298, 193), (299, 5)]).rpV.toNat + 1 < endOff (tok 298 10 [(298, 193), (299, 5)]) ∧
      192 < ((tok 298 10 [(298, 193), (299, 5)]).rawV 298).toNat) ∧
    ((tok 299 10 [(299, 255)]).rpV.toNat < endOff (tok 299 10 [(299, 255)]) ∧
      endOff (tok 299 10 [(299, 255)]) ≤ (tok 299 10 [(299, 255)]).rpV.toNat + 1 ∧
      192 < ((tok 299 10 [(299, 255)]).rawV 299).toNat) := by decide

/-- `RUN.REP` at the last free pixel with the last copy, and at a full buffer. -/
theorem witness_copy :
    ((mid 99 1).stage = .rle ∧ (mid 99 1).rcV ≠ 0 ∧ (mid 99 1).wpV.toNat < (mid 99 1).pixcntV.toNat) ∧
    ((mid 100 63).rcV ≠ 0 ∧ (mid 100 63).pixcntV.toNat ≤ (mid 100 63).wpV.toNat) := by decide

/-- `RLE.CLOSE` one pixel short and exactly full (V36, V37). -/
theorem witness_close :
    ((tok 300 99 []).stage = .rle ∧ (tok 300 99 []).rcV = 0 ∧ (tok 300 99 []).rpV.toNat = endOff (tok 300 99 []) ∧
      (tok 300 99 []).wpV.toNat < (tok 300 99 []).pixcntV.toNat) ∧
    (tok 300 100 []).pixcntV.toNat ≤ (tok 300 100 []).wpV.toNat := by decide

theorem witness_progress :
    (wRle 5 128 0).Inv ∧ (wRle 5 128 0).stage = .rle ∧ ∃ t, coreTurn (wRle 5 128 0) = .next t :=
  ⟨wRle_inv, rfl, _, rfl⟩

theorem witness_rle_stage :
    (wRle 5 128 0).Inv ∧ (wRle 5 128 0).stage = .rle ∧ (wRle 5 128 0).rpV = 128 ∧ (wRle 5 128 0).wpV = 0 ∧
      (wRle 5 128 0).rcV = 0 ∧ (wRle 5 128 0).inputs = [] :=
  ⟨wRle_inv, rfl, rfl, rfl, rfl, rfl⟩

/-- The first, the last and the closing palette index. -/
theorem witness_palette :
    ((pl 0 []).stage = .pal ∧ (pl 0 []).piV.toNat < 768) ∧ (pl 767 []).piV.toNat < 768 ∧
      ((pl 768 []).stage = .pal ∧ (pl 768 []).piV.toNat = 768) := by decide

/-- The two lengths where the clauses about `quantize` meet, and the start of the PAL stage. -/
theorem witness_palette_stage :
    (767 < 768 ∧ 768 ≤ 768) ∧ (wPal 0).Inv ∧ (wPal 0).stage = .pal ∧ (wPal 0).piV = 0 ∧ (wPal 0).inputs = [] :=
  ⟨by decide, wPal_inv, rfl, rfl, rfl⟩

/-- `START` with a file that fits every instance. -/
theorem witness_start :
    ({ at_ .idle with len := some 896 } : State).stage = .idle ∧
      ({ at_ .idle with len := some 896 } : State).lenV.toNat ≤ Config.params.rawCap :=
  ⟨rfl, Config.params_ok.1.1⟩

/-- `START` with a file one byte longer than the memory. Where `RAW_CAP` is the greatest that R8 admits, no 32-bit
length exceeds it and the fault cannot arise; in every other instance this state raises it. -/
theorem witness_start_too_long (h : Config.params.rawCap < 2 ^ 32 - 1) :
    Config.params.rawCap <
      ({ at_ .idle with len := some (BitVec.ofNat 32 (Config.params.rawCap + 1)) } : State).lenV.toNat := by
  change Config.params.rawCap < (BitVec.ofNat 32 (Config.params.rawCap + 1)).toNat
  rw [BitVec.toNat_ofNat, Nat.mod_eq_of_lt (by omega)]
  exact Nat.lt_succ_self _

theorem witness_clear : (at_ .done).stage = .done ∧ (at_ .fault).stage = .fault := ⟨rfl, rfl⟩

/-- The last cell of the smallest memory. -/
theorem witness_writes : State.reset.stage = .idle ∧ 895 < Config.params.rawCap :=
  ⟨rfl, Nat.lt_of_lt_of_le (by decide) Config.params_ok.1.1⟩

theorem witness_reads : dn.stage = .done ∧ 7 < dn.pixcntV.toNat ∧ 767 < 768 := by decide

/-- Every clause: a busy stage, an idle one, the first cell beyond the memories, a stage other than DONE. -/
theorem witness_out_of_place :
    (at_ .hdr).stage ≠ .idle ∧ (at_ .idle).stage = .idle ∧ (at_ .pal).stage.busy = true ∧
      Config.params.rawCap ≤ Config.params.rawCap ∧ (at_ .fault).stage ≠ .done ∧ dn.pixcntV.toNat ≤ 8 ∧ 768 ≤ 768 :=
  ⟨by decide, rfl, rfl, Nat.le_refl _, by decide, by decide, by decide⟩

theorem witness_disturb : (wPal 0).stage.busy = true ∧ ∃ t, coreTurn (wPal 0) = .next t := ⟨rfl, _, rfl⟩

/-- The last pixel word of eight pixels. -/
theorem witness_pixel_word : dn.stage = .done ∧ 2 * 3 + 1 < dn.pixcntV.toNat := by decide

/-- The last colour, with all three channels at their largest. -/
theorem witness_colour_word :
    wDone.stage = .done ∧ 255 < 256 ∧ ∀ c, c < 3 → (wDone.palV (3 * 255 + c)).toNat ≤ 31 := by
  refine ⟨rfl, by decide, fun c hc => ?_⟩
  have h : wDone.pal.read (3 * 255 + c) ≠ none := by
    rw [ne_eq, ← Option.not_isSome_iff_eq_none, not_not, Memory.read_isSome_iff]
    rw [wDone_pal, bright_addresses, List.mem_range]
    omega
  obtain ⟨b, hb⟩ := Option.ne_none_iff_exists'.mp h
  rw [State.palV, hb]
  rw [wDone_pal] at hb
  have hm := Memory.mem_of_read hb
  rw [bright] at hm
  obtain ⟨a, _, e⟩ := List.mem_map.mp hm
  have hb' : (31 : Byte) = b := congrArg Prod.snd e
  rw [← hb']
  exact Nat.le_refl 31

/-- No outputs; an unpaired last pixel (three pixels, word 1); a colour beyond the table. -/
theorem witness_undefined_words :
    (at_ .idle).stage ≠ .done ∧ ({ dn with pixcnt := some 3 } : State).pixcntV.toNat ≤ 2 * 1 + 1 ∧ 256 ≤ 256 := by decide

/-- The three ranges of the first byte at their ends, with and without a byte to follow. -/
theorem witness_first_byte :
    (191 : Byte).toNat < 192 ∧ (192 : Byte).toNat = 192 ∧ 192 < (193 : Byte).toNat ∧ 192 < (255 : Byte).toNat ∧
      ([7] : List Byte) = 7 :: [] ∧ ([] : List Byte) = [] := by decide

/-- Every instruction that has bytes, at an end of its operand range. -/
theorem witness_round_trip :
    (Instr.lit00 63).wf = true ∧ (Instr.lit01 127).wf = true ∧ (Instr.lit10 128).wf = true ∧ Instr.litC0.wf = true ∧
      (Instr.run 63 255).wf = true ∧ (Instr.palQ 255).wf = true ∧
      (Instr.run 63 255).region = some .compressed ∧ (Instr.palQ 255).region = some .palette := by decide

theorem witness_decoded : decode .compressed [0xFF, 7, 9] = .ok (.run 63 7, [9]) := by decide

/-- `REP 64, 9` into a buffer it fills exactly. -/
theorem witness_repeat : 1 ≤ 64 ∧ ([] : List Byte).length + 64 ≤ 64 := by decide

/-- Each clause about the schedule, a token fetch and a palette fetch. -/
theorem witness_step_runs :
    State.reset.inputs = [] ∧ ({ State.reset with inputs := [.core] } : State).inputs = .core :: [] ∧
    ({ State.reset with inputs := [.host .start] } : State).inputs = .host .start :: [] ∧
    ((tok 298 10 [(298, 0xC2), (299, 0xFF)]).stage = .rle ∧ (tok 298 10 [(298, 0xC2), (299, 0xFF)]).rcV = 0 ∧
      (tok 298 10 [(298, 0xC2), (299, 0xFF)]).rpV.toNat < endOff (tok 298 10 [(298, 0xC2), (299, 0xFF)]) ∧
      decode .compressed (fetchBytes (tok 298 10 [(298, 0xC2), (299, 0xFF)])) = .ok (.run 2 0xFF, [])) ∧
    ((pl 767 [(903, 8)]).stage = .pal ∧ (pl 767 [(903, 8)]).piV.toNat < 768 ∧
      decode .palette (paletteBytes (pl 767 [(903, 8)])) = .ok (.palQ 8, [])) ∧
    State.reset.stage = .idle := by decide

theorem witness_placed : decodeTableWord 8 0xC0 = some .litC0 := by decide

/-- CORE's turn answers in every stage. -/
theorem witness_core_turn :
    (∃ t, coreTurn (one .hdr 5) = .next t) ∧ (∃ t, coreTurn wOpen = .next t) ∧
      (∃ t, coreTurn (wRle 5 128 0) = .next t) ∧ (∃ t, coreTurn (wPal 0) = .next t) ∧
      ((at_ .idle).stage.busy = false ∧ coreTurn (at_ .idle) = .next (at_ .idle)) :=
  ⟨⟨_, rfl⟩, ⟨_, rfl⟩, ⟨_, rfl⟩, ⟨_, rfl⟩, rfl, rfl⟩

/-- The two moves of HOST that move `STATE`. -/
theorem witness_host_moves_stage :
    (∃ t, exec HostMove.start.toInstr (at_ .idle) = .next t ∧ t.stage ≠ (at_ .idle).stage) ∧
      (∃ t, exec HostMove.clear.toInstr (at_ .fault) = .next t ∧ t.stage ≠ (at_ .fault).stage) := by
  refine ⟨⟨_, rfl, ?_⟩, _, rfl, by decide⟩
  rcases startStep_cases Config.params (at_ .idle) with ⟨_, e⟩ | ⟨_, e⟩ <;>
    (change (startStep Config.params (at_ .idle)).stage ≠ .idle; rw [e]; decide)

/-- The pixel writers complete, `RUN.REP` with copies left over. -/
theorem witness_pixel_frame :
    (∃ t, exec (.lit10 191) (tok 200 10 []) = .next t ∧ t.stage ≠ .fault) ∧
    (∃ t, exec .litC0 (tok 200 10 []) = .next t ∧ t.stage ≠ .fault) ∧
      (∃ t, exec .runRep (mid 10 2) = .next t ∧ t.stage ≠ .fault ∧ (mid 10 2).rcV ≠ 1) :=
  ⟨⟨_, rfl, by decide⟩, ⟨_, rfl, by decide⟩, _, rfl, by decide, by decide⟩

/-- The operations that store nothing complete. -/
theorem witness_register_frame :
    (∃ t, exec (.run 1 193) (tok 200 10 []) = .next t ∧ t.stage ≠ .fault) ∧
    (∃ t, exec .rleOpen wOpen = .next t ∧ t.stage ≠ .fault) ∧
    (∃ t, exec .rleClose (tok 300 100 []) = .next t ∧ t.stage ≠ .fault) ∧
    (∃ t, exec .hdrLen (one .hdr 5) = .next t ∧ t.stage ≠ .fault) ∧
    (∃ t, exec .hdrUnpack (one .hdr 5) = .next t ∧ t.stage ≠ .fault) ∧
    (∃ t, exec .hdrCheck (one .hdr 5) = .next t ∧ t.stage ≠ .fault) ∧
    (∃ t, exec .hdr (hd 128 8 3 0 1 0) = .next t ∧ t.stage ≠ .fault) ∧
    (∃ t, exec .palClose (pl 768 []) = .next t ∧ t.stage ≠ .fault) := by
  refine ⟨⟨_, rfl, by decide⟩, ⟨_, rfl, ?_⟩, ⟨_, rfl, by decide⟩, ⟨_, rfl, by decide⟩, ⟨_, rfl, by decide⟩,
    ⟨_, rfl, by decide⟩, ⟨_, rfl, ?_⟩, _, rfl, by decide⟩
  · obtain ⟨_, ⟨h, _⟩, _⟩ := Config.params_ok
    have hu : pixelProduct wOpen = 1 := by decide
    rcases openStep_cases Config.params wOpen with ⟨c, _⟩ | ⟨_, c, _⟩ | ⟨_, _, _, _, e⟩
    · exact absurd c (by decide)
    · rw [hu] at c
      rcases c with c | c | c
      · exact absurd c (by decide)
      · exact absurd c (by decide)
      · omega
    · rw [e]; decide
  · rcases hdrStep_cases Config.params (hd 128 8 3 0 1 0) rfl with ⟨c, _⟩ | ⟨_, c, _⟩ | ⟨_, _, e⟩
    · exact absurd c (by decide)
    · exact absurd c (by decide)
    · rw [e]; decide

theorem witness_palette_frame : ∃ t, exec (.palQ 255) (pl 767 []) = .next t := ⟨_, rfl⟩

theorem witness_host_frame :
    (∃ t, exec (.writeLen 904) State.reset = .next t) ∧ (∃ t, exec (.writeRaw 895 7) State.reset = .next t) ∧
      (∃ t, exec .start { at_ .idle with len := some 896 } = .next t ∧ t.stage ≠ .fault) ∧
      (∃ t, exec (.readPix 7) dn = .next t) ∧ (∃ t, exec (.packPal 1) dn = .next t) := by
  refine ⟨⟨_, rfl⟩, ⟨_, rfl⟩, ⟨_, rfl, ?_⟩, ⟨_, rfl⟩, _, rfl⟩
  rcases startStep_cases Config.params { at_ .idle with len := some 896 } with ⟨c, _⟩ | ⟨_, e⟩
  · exact absurd c (Nat.not_lt.mpr Config.params_ok.1.1)
  · change (startStep Config.params { at_ .idle with len := some 896 }).stage ≠ .fault
    rw [e]; decide

/-- HOST tries to overwrite the input during a run. -/
theorem witness_busy_input :
    ({ wPal 0 with inputs := [.host (.writeRaw 130 0xFF)] } : State).stage.busy = true ∧
      (∀ es, ({ wPal 0 with inputs := [.host (.writeRaw 130 0xFF)] } : State).inputs ≠ .reset :: es) ∧
      ∃ t, step { wPal 0 with inputs := [.host (.writeRaw 130 0xFF)] } = .next t :=
  ⟨rfl, fun es => by simp, _, rfl⟩

/-- A write in DONE, where the next turn is neither reset nor `CLEAR`. -/
theorem witness_done_input :
    ({ dn with inputs := [.host (.writeLen 0)] } : State).stage ≠ .idle ∧
      (∀ es, ({ dn with inputs := [.host (.writeLen 0)] } : State).inputs ≠ .reset :: es) ∧
      (∀ es, ({ dn with inputs := [.host (.writeLen 0)] } : State).inputs ≠ .host .clear :: es) ∧
      ∃ t, step { dn with inputs := [.host (.writeLen 0)] } = .next t :=
  ⟨by decide, fun es => by simp, fun es => by simp, _, rfl⟩

/-- A literal step and a palette step, and another `RAW` that differs at `LEN` only. -/
theorem witness_bounds :
    (∃ t, (wRle 5 128 0).Inv ∧ coreTurn (wRle 5 128 0) = .next t ∧ t.stage ≠ .fault ∧
      t.pix.read 0 ≠ (wRle 5 128 0).pix.read 0) ∧
    (∃ t, (wPal 0).Inv ∧ coreTurn (wPal 0) = .next t ∧ t.stage ≠ .fault ∧ t.pal.read 0 ≠ (wPal 0).pal.read 0) ∧
    ∀ a < (wRle 5 128 0).lenV.toNat,
      State.rawV { wRle 5 128 0 with raw := [(128, 5), (897, 1)] } a = (wRle 5 128 0).rawV a := by
  refine ⟨⟨_, wRle_inv, rfl, by decide, by decide⟩, ⟨_, wPal_inv, rfl, by decide, by simp [wPal, palStep, State.piV, bright]⟩,
    fun a ha => ?_⟩
  have h : ¬ 897 = a := fun e => absurd (e ▸ ha) (by decide)
  simp [State.rawV, wRle, one, Memory.read, h]

/-- The premise of each kept invariant holds of a state that a step leaves. -/
theorem witness_invariants :
    (wRle 5 128 0).MemForm ∧ (wRle 5 128 0).ErrAgrees ∧ (wRle 5 128 0).Presence ∧ (wRle 5 128 0).Inv ∧
      ∃ t, step (wRle 5 128 0) = .next t :=
  ⟨wRle_inv.mem, wRle_inv.err, wRle_inv.presence, wRle_inv, _, rfl⟩

theorem witness_fits :
    ({ at_ .idle with len := some 896, inputs := [.host .start] } : State).Fits ∧
      ∃ t, step { at_ .idle with len := some 896, inputs := [.host .start] } = .next t :=
  ⟨fun h => absurd h (by decide), _, rfl⟩

theorem reset_presence (es : List Event) : State.Presence { State.reset with inputs := es } := by
  constructor <;> rfl

/-- A run from reset, over whatever the unwritten input holds. -/
theorem witness_run :
    State.Inv { State.reset with inputs := [.host .start] } ∧
      ({ State.reset with inputs := [.host .start] } : State).stage = .idle := by
  refine ⟨⟨by decide, by decide, reset_presence _, ?_⟩, rfl⟩
  refine ⟨fun c hc => absurd hc (by simp [State.reset]), fun h => ?_, fun h => ?_, fun h => ?_, fun h => ?_, fun h => ?_,
    fun c hc => absurd hc (by simp [State.reset])⟩ <;> exact absurd h (by decide)

/-- Two inputs of 900 bytes that differ in header byte 127 (no instance reads it unless its offsets say so) and behind
the end. -/
theorem witness_read_cells : ∀ a, a = 3 ∨ a = 8 ∨ a = 8 + 1 ∨ a = 10 ∨ a = 10 + 1 ∨ (128 ≤ a ∧ a < 900) →
    (fun x : Nat => if x = 127 ∨ x = 900 then (1 : Byte) else 0) a = (fun _ : Nat => (0 : Byte)) a := by
  intro a ha
  exact if_neg (by omega)

theorem witness_done : wDone.Inv ∧ wDone.stage = .done ∧ (0 : Int) < wDone.widthV.toInt ∧ (0 : Int) < wDone.heightV.toInt ∧
    767 < 768 := ⟨wDone_inv, rfl, by decide, by decide, by decide⟩

end Sys2Proof.Tests
end

section
/-! Proofs of the family `00_scope.md`: the arithmetic of the dimensions (R16) and of the quantisation (R15). -/

namespace Sys2Proof.Machine

/-! ## Dimensions -/

/-- R16: the 17-bit register has room for the successor of every 16-bit value, so `+ 1` does not wrap. -/
@[simp] theorem succExact_toInt (x : Half) : (succExact x).toInt = x.toInt + 1 := by
  have lower : -2 ^ 15 ≤ x.toInt := x.le_toInt
  have upper : x.toInt < 2 ^ 15 := BitVec.toInt_lt
  exact BitVec.toInt_ofInt_eq_self (by decide) (by omega) (by omega)

/-- R32 and R33: the least dimension is the successor of -32768. -/
theorem le_succExact_toInt (x : Half) : -32767 ≤ (succExact x).toInt := by
  have lower : -2 ^ 15 ≤ x.toInt := x.le_toInt
  rw [succExact_toInt]
  omega

/-- R32 and R33: the greatest dimension is the successor of 32767. -/
theorem succExact_toInt_le (x : Half) : (succExact x).toInt ≤ 32768 := by
  have upper : x.toInt < 2 ^ 15 := BitVec.toInt_lt
  rw [succExact_toInt]
  omega

/-- R16: the greatest product is that of the two greatest dimensions, `2^15 * 2^15`. One positive factor is enough for
this bound. -/
theorem succExact_mul_le (x y : Half) (hy : 1 ≤ (succExact y).toInt) :
    (succExact x).toInt * (succExact y).toInt ≤ 2 ^ 30 :=
  calc (succExact x).toInt * (succExact y).toInt
    _ ≤ 32768 * 32768 := Int.mul_le_mul (succExact_toInt_le x) (succExact_toInt_le y) (by omega) (by decide)
    _ = 2 ^ 30 := by norm_num

/-- R34: the 31-bit register `PIXCNT` holds every number from 0 to `2^30`. -/
theorem toNat_ofInt_pixcnt {n : Int} (h₀ : 0 ≤ n) (h : n ≤ 2 ^ 30) : ((BitVec.ofInt 31 n).toNat : Int) = n := by
  have in_range : n < ((2 ^ 31 : Nat) : Int) := by norm_num at h ⊢; omega
  rw [BitVec.toNat_ofInt, Int.emod_eq_of_lt h₀ in_range, Int.toNat_of_nonneg h₀]

/-- Settles O9: the range of a dimension is that of a 16-bit number moved up by one, and the product is within the
square of its upper end. -/
theorem dimensionsAreExact : Obligations.DimensionsAreExact := by
  refine ⟨fun x => ⟨succExact_toInt x, le_succExact_toInt x, succExact_toInt_le x⟩, fun x y hx hy => ?_⟩
  have positive : 1 ≤ (succExact x).toInt * (succExact y).toInt := one_le_mul_of_one_le_of_one_le hx hy
  have bounded := succExact_mul_le x y hy
  exact ⟨positive, bounded, toNat_ofInt_pixcnt (by omega) bounded⟩

/-! ## Quantisation -/

@[simp] theorem quantise_toNat (v : Byte) : (quantise v).toNat = v.toNat / 8 := BitVec.toNat_udiv

/-- R15: the divisor is `2^3`. -/
theorem quantise_eq_shift (v : Byte) : quantise v = v >>> 3 := BitVec.udiv_twoPow_eq_of_lt (k := 3) (by decide)

/-- R15: the quotient is the upper five bits; a byte has none above them to cut off. -/
theorem quantise_eq_extract (v : Byte) : quantise v = (v.extractLsb 7 3).setWidth 8 := by
  apply BitVec.eq_of_toNat_eq
  have := v.isLt
  rw [quantise_toNat, BitVec.toNat_setWidth, BitVec.extractLsb_toNat, Nat.shiftRight_eq_div_pow]
  omega

/-- R39: a quantised channel is a 5-bit value. -/
theorem quantise_toNat_le (v : Byte) : (quantise v).toNat ≤ 31 := by
  have := v.isLt
  rw [quantise_toNat]
  omega

/-- Settles O19: 8 is a power of two, so the division, the shift and the upper bits agree. -/
theorem quantisationTruncates : Obligations.QuantisationTruncates := fun v =>
  ⟨quantise_toNat v, quantise_eq_shift v, quantise_eq_extract v, quantise_toNat_le v⟩

end Sys2Proof.Machine
end

section
/-! Proofs of the family `10_state.md`: the status flags and codes (R21, R36), and the invariants of a step (R20, R22),
each proved over the effects a step can have. -/

namespace Sys2Proof.Machine

/-! ## Status and codes -/

theorem Stage.busy_iff (g : Stage) :
    g.busy = true ↔ g = .hdr ∨ g = .opening ∨ g = .rle ∨ g = .pal := by cases g <;> decide

@[simp] theorem State.doneFlag_iff (s : State) : s.doneFlag = true ↔ s.stage = .done := beq_iff_eq

@[simp] theorem State.faultFlag_iff (s : State) : s.faultFlag = true ↔ s.stage = .fault := beq_iff_eq

/-- Settles O58: the stage decides which of the four statuses holds. -/
theorem exactlyOneStatusHolds : Obligations.ExactlyOneStatusHolds := by
  refine fun s => ⟨s.stage.busy_iff, s.doneFlag_iff, s.faultFlag_iff, ?_⟩
  unfold State.busyFlag State.doneFlag State.faultFlag
  cases s.stage with
  | idle => exact .inl (by decide)
  | hdr | opening | rle | pal => exact .inr (.inl (by decide))
  | done => exact .inr (.inr (.inl (by decide)))
  | fault => exact .inr (.inr (.inr (by decide)))

/-- R21: three bits have one code more than there are stages. -/
theorem Stage.code_ne_seven (g : Stage) : g.code ≠ 7 := by cases g <;> decide

/-- Settles O60: a table of constants. -/
theorem stageCodesAreTheTable : Obligations.StageCodesAreTheTable :=
  ⟨rfl, rfl, rfl, rfl, rfl, rfl, rfl, Stage.code_ne_seven⟩

/-! ## The effects of a step -/

/-- Everything one step can do to the state, whichever agent takes it: `CoreStep` and `HostStep` with the faults
gathered into one case. The invariants are proved over these cases. -/
inductive Effect (s : State) : State → Prop
  /-- Nothing of CORE changes (R194, R196, R245); HOST's schedule, its port and the draw counter may. -/
  | hostSide (es : List Event) (r : Option Response) (n : Nat) : Effect s { s with inputs := es, port := r, draws := n }
  /-- R226. -/
  | fault (k : ErrKind) (hk : k ≠ .none) : Effect s (raise k s)
  /-- `CLEAR` and the reset event (R193, R260). -/
  | release : Effect s (release s)
  /-- `START` (R192). -/
  | start (hs : s.stage = .idle) (hl : s.lenV.toNat ≤ Config.params.rawCap) : Effect s { s with stage := .hdr }
  /-- `WRITE_LEN` (R191). -/
  | writeLen (hs : s.stage = .idle) (n : BitVec 32) : Effect s { s with len := some n }
  /-- `WRITE_RAW` (R191). -/
  | writeRaw (hs : s.stage = .idle) (a : Nat) (b : Byte) (ha : a < Config.params.rawCap) :
      Effect s { s with raw := s.raw.write a b }
  /-- `HDR` (R130). -/
  | header (hs : s.stage = .hdr) (hl : 128 ≤ s.lenV.toNat) (hb : s.rawV 3 = 8) :
      Effect s (headerLatched Config.params s)
  /-- `RLE.OPEN` (R150). -/
  | opened (hs : s.stage = .opening) (hl : 896 ≤ s.lenV.toNat) (hw : 1 ≤ s.widthV.toInt) (hh : 1 ≤ s.heightV.toInt)
      (hc : pixelProduct s ≤ Config.params.pixCap) :
      Effect s { s with
        pixcnt := some (BitVec.ofInt 31 (pixelProduct s)), rp := some 128, wp := some 0, rc := some 0, stage := .rle }
  /-- A literal (R156). -/
  | literal (hs : s.stage = .rle) (hr : s.rcV = 0) (hp : s.rpV.toNat < endOff s)
      (hw : s.wpV.toNat < s.pixcntV.toNat) (v : Byte) : Effect s { emit v s with rp := some (s.rpV + 1) }
  /-- `RUN` (R157). -/
  | run (hs : s.stage = .rle) (hr : s.rcV = 0) (hp : s.rpV.toNat + 1 < endOff s) (n : BitVec 6) (hn : n ≠ 0)
      (v : Byte) : Effect s { s with rc := some n, rv := some v, rp := some (s.rpV + 2) }
  /-- `RUN.REP` (R159). -/
  | copy (hs : s.stage = .rle) (hr : s.rcV ≠ 0) (hw : s.wpV.toNat < s.pixcntV.toNat) :
      Effect s { emit s.rvV s with rc := some (s.rcV - 1), rv := if s.rcV = 1 then none else s.rv }
  /-- `RLE.CLOSE` (R158). -/
  | closed (hs : s.stage = .rle) (hr : s.rcV = 0) (hw : s.pixcntV.toNat ≤ s.wpV.toNat) :
      Effect s { s with pi := some 0, stage := .pal, rp := none, rc := none, rv := none }
  /-- `PAL.Q` (R181). -/
  | quant (hs : s.stage = .pal) (hi : s.piV.toNat < 768) (v : Byte) : Effect s (palStep v s)
  /-- `PAL.CLOSE` (R182). -/
  | finish (hs : s.stage = .pal) (hi : s.piV.toNat = 768) : Effect s (palCloseStep s)

theorem Effect.refl (s : State) : Effect s s := .hostSide s.inputs s.port s.draws

theorem runCount_ne_zero {b : Byte} (hb : 192 < b.toNat) : runCount b ≠ 0 := by
  intro h
  have count := runCount_toNat b hb
  have zero : (runCount b).toNat = 0 := by rw [h]; rfl
  omega

theorem CoreStep.effect {s t : State} (h : CoreStep s t) : Effect s t := by
  cases h with
  | rest _ => exact .refl s
  | hdr hs =>
    rcases hdrStep_cases Config.params s hs with ⟨_, e⟩ | ⟨_, _, e⟩ | ⟨hl, hb, e⟩
    · exact e ▸ .fault _ (by decide)
    · exact e ▸ .fault _ (by decide)
    · exact e ▸ .header hs hl hb
  | opening hs =>
    rcases openStep_cases Config.params s with ⟨_, e⟩ | ⟨_, _, e⟩ | ⟨hl, hw, hh, hc, e⟩
    · exact e ▸ .fault _ (by decide)
    · exact e ▸ .fault _ (by decide)
    · exact e ▸ .opened hs hl hw hh hc
  | copy hs hr =>
    rcases runRepStep_cases s with ⟨_, e⟩ | ⟨hw, e⟩
    · exact e ▸ .fault _ (by decide)
    · exact e ▸ .copy hs hr hw
  | lit hs hr hp _ =>
    rcases litStep_cases (s.rawV s.rpV.toNat) s with ⟨_, e⟩ | ⟨hw, e⟩
    · exact e ▸ .fault _ (by decide)
    · exact e ▸ .literal hs hr hp hw _
  | run hs hr hp hb => exact .run hs hr hp _ (runCount_ne_zero hb) _
  | dangling => exact .fault _ (by decide)
  | close hs hr _ =>
    rcases closeStep_cases s with ⟨_, e⟩ | ⟨hw, e⟩
    · exact e ▸ .fault _ (by decide)
    · exact e ▸ .closed hs hr hw
  | quant hs hi => exact .quant hs hi _
  | finish hs hi => exact .finish hs hi

theorem HostStep.effect {s t : State} {m : HostMove} (h : HostStep s m t) : Effect s t := by
  cases h with
  | start hs =>
    rcases startStep_cases Config.params s with ⟨_, e⟩ | ⟨hl, e⟩
    · exact e ▸ .fault _ (by decide)
    · exact e ▸ .start hs hl
  | clear _ => exact .release
  | writeLen n hs => exact .writeLen hs n
  | writeRaw a b hs ha => exact .writeRaw hs a b ha
  | ignored => exact .refl s
  | answered _ r => exact .hostSide s.inputs (some r) s.draws
  | answeredFree _ r => exact .hostSide s.inputs (some r) (s.draws + 1)

/-- A step takes its turn off the schedule and then has one effect. -/
theorem step_effect {s t : State} (h : step s = .next t) : ∃ es, Effect { s with inputs := es } t := by
  rcases step_cases h with ⟨_, hc⟩ | ⟨_, es, _, ⟨_, hc⟩ | ⟨m, _, hm⟩ | ⟨_, rfl⟩⟩
  · exact ⟨s.inputs, hc.effect⟩
  · exact ⟨es, hc.effect⟩
  · exact ⟨es, (hostStep_of_exec hm).effect⟩
  · exact ⟨es, .release⟩

/-- What every effect keeps, every step keeps. -/
theorem step_keeps {P : State → Prop} (keeps : ∀ {s t}, P s → Effect s t → P t) {s t : State} (h : P s)
    (hst : step s = .next t) : P t := by
  obtain ⟨es, he⟩ := step_effect hst
  exact keeps (keeps h (.hostSide es s.port s.draws)) he

/-! ## `ERR` -/

theorem State.ErrAgrees.effect {s t : State} (h : s.ErrAgrees) (he : Effect s t) : t.ErrAgrees := by
  cases he with
  | hostSide | writeLen | writeRaw | literal | run | copy | quant => exact h
  | fault k hk => exact iff_of_false hk (fun hne => hne rfl)
  | release => exact iff_of_true rfl Stage.noConfusion
  | start hs | header hs | opened hs | closed hs | finish hs =>
    exact iff_of_true (h.mpr (by rw [hs]; decide)) Stage.noConfusion

/-- Settles O50: the operations that write `ERR` are those that enter or leave `FAULT`; any other one that moves
`STATE` leads from a stage that is not `FAULT` to another. -/
theorem stepKeepsErrAgreement : Obligations.StepKeepsErrAgreement := fun _ _ => step_keeps State.ErrAgrees.effect

/-! ## Canonical memories -/

theorem State.MemForm.effect {s t : State} (h : s.MemForm) (he : Effect s t) : t.MemForm := by
  obtain ⟨hraw, hpix, hpal⟩ := h
  cases he with
  | hostSide | start | writeLen | header | opened | run | closed | finish => exact ⟨hraw, hpix, hpal⟩
  | fault => exact ⟨hraw, Memory.wf_nil, Memory.wf_nil⟩
  | release => exact ⟨Memory.wf_nil, Memory.wf_nil, Memory.wf_nil⟩
  | writeRaw => exact ⟨Memory.wf_write hraw _ _, hpix, hpal⟩
  | literal | copy => exact ⟨hraw, Memory.wf_write hpix _ _, hpal⟩
  | quant => exact ⟨hraw, hpix, Memory.wf_write hpal _ _⟩

/-! ## The validity table -/

/-- The stage a state is known to be in, written into the state. -/
theorem State.with_stage {s : State} {g : Stage} (hs : s.stage = g) : s = { s with stage := g } := by rw [← hs]

/-- `wp` has room for its successor while the buffer has a free cell. -/
theorem wpV_succ_toNat {s : State} (hw : s.wpV.toNat < s.pixcntV.toNat) :
    (s.wpV + 1).toNat = s.wpV.toNat + 1 := by bv_omega

/-- `pi` has room for its successor within the palette block. -/
theorem piV_succ_toNat {s : State} (hi : s.piV.toNat < 768) : (s.piV + 1).toNat = s.piV.toNat + 1 := by bv_omega

@[simp] theorem emit_wpV (v : Byte) (s : State) : (emit v s).wpV = s.wpV + 1 := rfl

/-- `PIX` stays filled from 0 up to `wp`. -/
theorem emit_pix_addresses {s : State} (v : Byte) (hw : s.wpV.toNat < s.pixcntV.toNat)
    (h : s.pix.addresses = List.range s.wpV.toNat) :
    (emit v s).pix.addresses = List.range (emit v s).wpV.toNat := by
  rw [emit_wpV, wpV_succ_toNat hw]
  exact Memory.addresses_write_next v h

/-- `PAL` stays filled from 0 up to `pi`. -/
theorem palStep_pal_addresses {s : State} (v : Byte) (hi : s.piV.toNat < 768)
    (h : s.pal.addresses = List.range s.piV.toNat) :
    (palStep v s).pal.addresses = List.range (palStep v s).piV.toNat := by
  have next : (palStep v s).piV.toNat = s.piV.toNat + 1 := piV_succ_toNat hi
  rw [next]
  exact Memory.addresses_write_next _ h

/-- R27: the run value outlives a copy exactly when another copy is to come. -/
theorem copied_rv_isSome {s : State} (hrv : s.rv.isSome = true) :
    (if s.rcV = 1 then none else s.rv).isSome = (s.rcV - 1 != 0) := by
  by_cases last : s.rcV = 1
  · simp [last]
  · have more : s.rcV - 1 ≠ 0 := fun e => last (sub_eq_zero.mp e)
    rw [if_neg last, hrv]
    exact (bne_iff_ne.mpr more).symm

theorem State.Presence.effect {s t : State} (h : s.Presence) (he : Effect s t) : t.Presence := by
  cases he with
  | hostSide | writeLen | writeRaw => exact { h with }
  | fault | release => constructor <;> rfl
  | start hs =>
    rw [State.with_stage hs] at h
    exact { h with }
  | header hs =>
    rw [State.with_stage hs] at h
    exact { h with bpp := rfl, xmax := rfl, ymax := rfl, width := rfl, height := rfl }
  | opened hs =>
    rw [State.with_stage hs] at h
    exact { h with pixcnt := rfl, rp := rfl, wp := rfl, rc := rfl }
  | literal hs _ _ hw v =>
    rw [State.with_stage hs] at h ⊢
    exact { h with rp := rfl, wp := rfl, pix := emit_pix_addresses v hw h.pix }
  | run hs _ _ n hn =>
    rw [State.with_stage hs] at h ⊢
    exact { h with rp := rfl, rc := rfl, rv := (bne_iff_ne.mpr hn).symm }
  | copy hs hr hw =>
    rw [State.with_stage hs] at h ⊢
    have hrv : s.rv.isSome = true := h.rv.trans (bne_iff_ne.mpr hr)
    exact { h with wp := rfl, rc := rfl, rv := copied_rv_isSome hrv, pix := emit_pix_addresses s.rvV hw h.pix }
  | closed hs =>
    rw [State.with_stage hs] at h
    exact { h with pi := rfl, rp := rfl, rc := rfl, rv := rfl }
  | quant hs hi v =>
    rw [State.with_stage hs] at h ⊢
    exact { h with pi := rfl, pal := palStep_pal_addresses v hi h.pal }
  | finish hs hi =>
    rw [State.with_stage hs] at h
    exact { h with pi := rfl, pal := h.pal.trans (congrArg List.range hi) }

/-- Settles O51: the registers of a stage come and go with it, and `PIX` and `PAL` grow by their next cell only. -/
theorem stepKeepsTheValidityTable : Obligations.StepKeepsTheValidityTable := fun _ _ => step_keeps State.Presence.effect

/-! ## The ranges -/

/-- Where no header register holds a value, only the two bounds on memory cells say anything. -/
theorem State.Ranges.of_noHeader {s : State} (hs : s.stage.hasHeader = false)
    (rawCap : ∀ c ∈ s.raw, c.1 < Config.params.rawCap) (channels : ∀ c ∈ s.pal, c.2.toNat ≤ 31) : s.Ranges := by
  cases hg : s.stage with
  | opening | rle | pal | done => rw [hg] at hs; cases hs
  | idle | hdr | fault =>
    rw [State.with_stage hg]
    exact { rawCap, channels, header := nofun, pixels := nofun, region := nofun, filled := nofun, index := nofun }

/-- The read pointer moves on within the region without wrapping: `END` is a 32-bit number (R24). -/
theorem region_advance {s : State} {k : BitVec 32} (hr : 128 ≤ s.rpV.toNat)
    (hk : s.rpV.toNat + k.toNat ≤ endOff s) :
    128 ≤ (s.rpV + k).toNat ∧ (s.rpV + k).toNat ≤ endOff s := by
  have end_lt : endOff s < 2 ^ 32 := (Nat.sub_le _ _).trans_lt s.lenV.isLt
  rw [BitVec.toNat_add_of_lt (hk.trans_lt end_lt)]
  omega

/-- R151, R152: a sized buffer's `PIXCNT` is the product of the dimensions. -/
theorem opened_pixcnt {s : State} (hw : 1 ≤ s.widthV.toInt) (hh : 1 ≤ s.heightV.toInt)
    (hc : pixelProduct s ≤ Config.params.pixCap) :
    ((BitVec.ofInt 31 (pixelProduct s)).toNat : Int) = pixelProduct s := by
  have positive : 1 ≤ pixelProduct s := one_le_mul_of_one_le_of_one_le hw hh
  obtain ⟨_, ⟨_, cap_le⟩, _⟩ := Config.params_ok
  exact toNat_ofInt_pixcnt (by omega) (by omega)

theorem State.Ranges.effect {s t : State} (h : s.Ranges) (he : Effect s t) : t.Ranges := by
  cases he with
  | hostSide => exact { h with }
  | fault => exact .of_noHeader rfl h.rawCap nofun
  | release => exact .of_noHeader rfl nofun nofun
  | start => exact .of_noHeader rfl h.rawCap h.channels
  | writeLen hs => exact .of_noHeader (congrArg Stage.hasHeader hs) h.rawCap h.channels
  | writeRaw hs a b ha =>
    refine .of_noHeader (congrArg Stage.hasHeader hs) (fun c hc => ?_) h.channels
    rcases Memory.mem_write hc with rfl | hc
    · exact ha
    · exact h.rawCap c hc
  | header hs hl hb =>
    exact {
      rawCap := h.rawCap, channels := h.channels
      header := fun _ => ⟨hl, hb, rfl, rfl⟩
      pixels := nofun, region := nofun, filled := nofun, index := nofun }
  | opened hs hl hw hh hc =>
    rw [State.with_stage hs] at h
    have count := opened_pixcnt hw hh hc
    have within : 128 ≤ endOff s := Nat.le_sub_of_add_le hl
    exact { h with
      pixels := fun _ => ⟨hl, hw, hh, count, Int.ofNat_le.mp (count.trans_le hc), Nat.zero_le _⟩
      region := fun _ => ⟨le_rfl, within⟩
      filled := nofun, index := nofun }
  | literal hs _ hp hwp v =>
    rw [State.with_stage hs] at h ⊢
    obtain ⟨hl, hw, hh, count, cap, -⟩ := h.pixels rfl
    exact { h with
      pixels := fun _ => ⟨hl, hw, hh, count, cap, (wpV_succ_toNat hwp).trans_le hwp⟩
      region := fun _ => region_advance (h.region rfl).1 hp
      filled := nofun }
  | run hs _ hp =>
    rw [State.with_stage hs] at h ⊢
    exact { h with region := fun _ => region_advance (h.region rfl).1 hp }
  | copy hs _ hwp =>
    rw [State.with_stage hs] at h ⊢
    obtain ⟨hl, hw, hh, count, cap, -⟩ := h.pixels rfl
    exact { h with
      pixels := fun _ => ⟨hl, hw, hh, count, cap, (wpV_succ_toNat hwp).trans_le hwp⟩
      filled := nofun }
  | closed hs _ full =>
    rw [State.with_stage hs] at h
    obtain ⟨-, -, -, -, -, hwp⟩ := h.pixels rfl
    exact { h with
      region := nofun
      filled := fun _ => BitVec.eq_of_toNat_eq (Nat.le_antisymm hwp full)
      index := fun _ => Nat.zero_le _ }
  | quant hs hi v =>
    exact { h with
      index := fun _ => (piV_succ_toNat hi).trans_le hi
      channels := fun c hc => by
        rcases Memory.mem_write hc with rfl | hc
        · exact quantise_toNat_le v
        · exact h.channels c hc }
  | finish hs =>
    rw [State.with_stage hs] at h
    exact { h with filled := fun _ => h.filled (.inl rfl), index := nofun, region := nofun }

/-! ## The invariant -/

theorem State.Inv.effect {s t : State} (h : s.Inv) (he : Effect s t) : t.Inv :=
  ⟨h.mem.effect he, h.err.effect he, h.presence.effect he, h.ranges.effect he⟩

/-- Settles O53: each of its four parts is kept by itself. -/
theorem stepKeepsTheInvariant : Obligations.StepKeepsTheInvariant := fun _ _ => step_keeps State.Inv.effect

/-- Settles O54: nothing is held, and no run has a file to fit. -/
theorem resetMeetsTheInvariant : Obligations.ResetMeetsTheInvariant where
  left := {
    mem := ⟨Memory.wf_nil, Memory.wf_nil, Memory.wf_nil⟩
    err := iff_of_true rfl Stage.noConfusion
    presence := by constructor <;> rfl
    ranges := .of_noHeader rfl nofun nofun }
  right := nofun

/-- Settles O1: the reset state written out. -/
theorem resetLeavesIdleAndNothingHeld : Obligations.ResetLeavesIdleAndNothingHeld :=
  ⟨rfl, rfl, rfl, rfl, rfl, Memory.read_nil, rfl, rfl, rfl, rfl, rfl, rfl, rfl, rfl, rfl, rfl, rfl,
    Memory.read_nil, Memory.read_nil⟩

end Sys2Proof.Machine
end

section
/-! Proofs of the family `20_memory.md`: the byte order of a 16-bit field (R66), the canonical form of the memories
(R60), and what CORE's turn reads and writes (R73, R77). -/

namespace Sys2Proof.Machine

/-! ## Byte order -/

/-- Two bytes side by side: the shifted byte has no bit in common with the other one, so the disjunction is their
sum. -/
@[simp] theorem packPixels_toNat (lo hi : Byte) : (packPixels lo hi).toNat = lo.toNat + 256 * hi.toNat := by
  have hi_lt := hi.isLt
  have shifted : (hi.setWidth 16 <<< 8).toNat = 2 ^ 8 * hi.toNat := by
    rw [BitVec.toNat_shiftLeft, BitVec.toNat_setWidth, Nat.shiftLeft_eq]
    omega
  have low : (lo.setWidth 16).toNat = lo.toNat := BitVec.toNat_setWidth_of_le (by decide)
  rw [packPixels, BitVec.toNat_or, shifted, low, Nat.or_comm, ← Nat.two_pow_add_eq_or_of_lt lo.isLt, Nat.add_comm]

/-- R66: a header field is made of its two bytes as a pixel word is of its two pixels (R211). -/
theorem le16_toNat (s : State) (off : Nat) :
    (le16 s off).toNat = (s.rawV off).toNat + 256 * (s.rawV (off + 1)).toNat := packPixels_toNat _ _

/-- R10: `sext_16` as a number. -/
theorem half_toInt (x : Half) : x.toInt = if x.toNat < 32768 then (x.toNat : Int) else x.toNat - 65536 := by
  rw [BitVec.toInt_eq_toNat_cond]
  omega

/-- Settles O8: the two bytes side by side, read as a 16-bit number of two's complement. -/
theorem headerFieldsAreLittleEndianSigned : Obligations.HeaderFieldsAreLittleEndianSigned := fun s off =>
  ⟨le16_toNat s off, half_toInt (le16 s off)⟩

/-! ## Canonical memories -/

/-- Settles O49: an effect empties a memory, writes one cell of it, or leaves it alone. -/
theorem stepKeepsMemoryForm : Obligations.StepKeepsMemoryForm := fun _ _ => step_keeps State.MemForm.effect

/-! ## What CORE's turn writes -/

/-- CORE's turn leaves HOST's input, the free values' epoch and the model's own fields alone (R77). -/
theorem CoreStep.frame {s t : State} (h : CoreStep s t) :
    t.len = s.len ∧ t.raw = s.raw ∧ t.epoch = s.epoch ∧ t.inputs = s.inputs ∧ t.port = s.port ∧ t.draws = s.draws := by
  cases h with
  | rest | run | dangling | quant | finish => exact ⟨rfl, rfl, rfl, rfl, rfl, rfl⟩
  | hdr hs =>
    rcases hdrStep_cases Config.params s hs with ⟨_, e⟩ | ⟨_, _, e⟩ | ⟨_, _, e⟩ <;>
      exact e ▸ ⟨rfl, rfl, rfl, rfl, rfl, rfl⟩
  | opening =>
    rcases openStep_cases Config.params s with ⟨_, e⟩ | ⟨_, _, e⟩ | ⟨_, _, _, _, e⟩ <;>
      exact e ▸ ⟨rfl, rfl, rfl, rfl, rfl, rfl⟩
  | copy => rcases runRepStep_cases s with ⟨_, e⟩ | ⟨_, e⟩ <;> exact e ▸ ⟨rfl, rfl, rfl, rfl, rfl, rfl⟩
  | lit => rcases litStep_cases _ s with ⟨_, e⟩ | ⟨_, e⟩ <;> exact e ▸ ⟨rfl, rfl, rfl, rfl, rfl, rfl⟩
  | close => rcases closeStep_cases s with ⟨_, e⟩ | ⟨_, e⟩ <;> exact e ▸ ⟨rfl, rfl, rfl, rfl, rfl, rfl⟩

/-- R77 for CORE's turn. -/
theorem CoreStep.input_eq {s t : State} (h : CoreStep s t) : t.len = s.len ∧ t.raw = s.raw :=
  let ⟨len, raw, _⟩ := h.frame
  ⟨len, raw⟩

/-- `PIX` after a turn of CORE that raises nothing: as it was, or with the pixel at `wp` written (R156, R159). -/
theorem CoreStep.pix_cases {s t : State} (h : CoreStep s t) (ok : t.stage ≠ .fault) :
    t.pix = s.pix ∨
      s.stage = .rle ∧ s.wpV.toNat < s.pixcntV.toNat ∧ ∃ v, t.pix = s.pix.write s.wpV.toNat v := by
  obtain ⟨-, -, same_epoch, -⟩ := h.frame
  cases h.effect with
  | hostSide | start | writeLen | writeRaw | header | opened | run | closed | quant | finish => exact .inl rfl
  | fault => exact absurd rfl ok
  | release => exact absurd same_epoch (Nat.succ_ne_self _)
  | literal hs _ _ hw | copy hs _ hw => exact .inr ⟨hs, hw, _, rfl⟩

/-- `PAL` after a turn of CORE that raises nothing: as it was, or with the channel at `pi` written (R181). -/
theorem CoreStep.pal_cases {s t : State} (h : CoreStep s t) (ok : t.stage ≠ .fault) :
    t.pal = s.pal ∨ s.stage = .pal ∧ s.piV.toNat < 768 ∧ ∃ v, t.pal = s.pal.write s.piV.toNat v := by
  obtain ⟨-, -, same_epoch, -⟩ := h.frame
  cases h.effect with
  | hostSide | start | writeLen | writeRaw | header | opened | literal | run | copy | closed | finish => exact .inl rfl
  | fault => exact absurd rfl ok
  | release => exact absurd same_epoch (Nat.succ_ne_self _)
  | quant hs hi => exact .inr ⟨hs, hi, _, rfl⟩

/-- A cell that reads differently after a write is the one written. -/
theorem Memory.eq_of_read_write_ne {m : Memory} {a x : Nat} {b : Byte} (h : (m.write a b).read x ≠ m.read x) : x = a :=
  not_imp_comm.mp (m.read_write_other b) h

/-! ## What CORE's turn reads -/

/-- The cells of `RAW` that CORE's turn can read (R70): in HDR the header's, once it is known to be there; in RLE the
compressed region's; in PAL the current palette byte. -/
inductive State.ReadsRaw (s : State) : Nat → Prop
  | header (hs : s.stage = .hdr) (hl : 128 ≤ s.lenV.toNat) {a : Nat} (ha : a < 128) : ReadsRaw s a
  | token (hs : s.stage = .rle) {a : Nat} (ha : a < endOff s) : ReadsRaw s a
  | palette (hs : s.stage = .pal) (hi : s.piV.toNat < 768) : ReadsRaw s (paletteOff s s.piV.toNat)

/-- R73: CORE never reads `RAW` at or above `LEN`. -/
theorem State.Inv.lt_len_of_readsRaw {s : State} (h : s.Inv) {a : Nat} (ha : s.ReadsRaw a) : a < s.lenV.toNat := by
  cases ha with
  | header _ hl ha => exact ha.trans_le hl
  | token _ ha => exact ha.trans_le (Nat.sub_le _ _)
  | palette hs hi =>
    obtain ⟨hl, -⟩ := h.ranges.pixels (congrArg Stage.hasPixels hs)
    rw [paletteOff, Config.palSize_eq]
    omega

/-- `s` with another `RAW` and other values of the model's own fields: all that CORE's operations do not write, but for
`LEN` and the epoch (`CoreStep.frame`). -/
def State.withOutside (s : State) (m : Memory) (es : List Event) (r : Option Response) (n : Nat) : State :=
  { s with raw := m, inputs := es, port := r, draws := n }

section
variable (m : Memory) (es : List Event) (r : Option Response) (n : Nat) (s : State)

theorem runRepStep_withOutside : runRepStep (s.withOutside m es r n) = (runRepStep s).withOutside m es r n := by
  rw [runRepStep, runRepStep, apply_ite (State.withOutside · m es r n)]
  rfl

theorem litStep_withOutside (v : Byte) : litStep v (s.withOutside m es r n) = (litStep v s).withOutside m es r n := by
  rw [litStep, litStep, apply_ite (State.withOutside · m es r n)]
  rfl

theorem closeStep_withOutside : closeStep (s.withOutside m es r n) = (closeStep s).withOutside m es r n := by
  rw [closeStep, closeStep, apply_ite (State.withOutside · m es r n)]
  rfl

theorem openStep_withOutside (p : Config.Params) :
    openStep p (s.withOutside m es r n) = (openStep p s).withOutside m es r n := by
  simp only [openStep, apply_ite (State.withOutside · m es r n)]
  rfl

end

/-- `HDR` as one function: the three outcomes of R130 in the order of their tests. -/
theorem hdrStep_eq (p : Config.Params) {s : State} (hs : s.stage = .hdr) :
    hdrStep p s =
      if s.lenV.toNat < 128 then raise .truncatedFile s
      else if s.rawV 3 = 8 then headerLatched p s
      else raise .unsupportedFormat s := by
  rcases hdrStep_cases p s hs with ⟨short, e⟩ | ⟨long, depth, e⟩ | ⟨long, depth, e⟩
  · rw [e, if_pos short]
  · rw [e, if_neg (Nat.not_lt.mpr long), if_neg depth]
  · rw [e, if_neg (Nat.not_lt.mpr long), if_pos depth]

/-- What `HDR` latches comes from the header's cells alone (R8, R134). -/
theorem headerLatched_withOutside {s : State} {m : Memory} {es : List Event} {r : Option Response} {n : Nat}
    (alike : ∀ a < 128, (s.withOutside m es r n).rawV a = s.rawV a) :
    headerLatched Config.params (s.withOutside m es r n) =
      (headerLatched Config.params s).withOutside m es r n := by
  obtain ⟨-, -, hx, hy⟩ := Config.params_ok
  have field_alike {off : Nat} (h : off ≤ 126) : le16 (s.withOutside m es r n) off = le16 s off := by
    rw [le16, le16, alike off (by omega), alike (off + 1) (by omega)]
  rw [headerLatched, unpackStep, field_alike hx, field_alike hy, alike Config.offBpp (by decide)]
  rfl

theorem hdrStep_withOutside {s : State} (hs : s.stage = .hdr) {m : Memory} {es : List Event} {r : Option Response}
    {n : Nat} (alike : ∀ a, s.ReadsRaw a → (s.withOutside m es r n).rawV a = s.rawV a) :
    hdrStep Config.params (s.withOutside m es r n) = (hdrStep Config.params s).withOutside m es r n := by
  have hs' : (s.withOutside m es r n).stage = .hdr := hs
  have len' : (s.withOutside m es r n).lenV = s.lenV := rfl
  rw [hdrStep_eq _ hs, hdrStep_eq _ hs', len']
  by_cases short : s.lenV.toNat < 128
  · rw [if_pos short, if_pos short]
    rfl
  · have header_alike (a : Nat) (ha : a < 128) := alike a (.header hs (Nat.le_of_not_lt short) ha)
    rw [if_neg short, if_neg short, header_alike 3 (by decide), headerLatched_withOutside header_alike,
      apply_ite (State.withOutside · m es r n)]
    rfl

/-- CORE's turn does not see what lies outside: with another `RAW` that reads the same where the turn reads it, and with
any schedule, port and draw counter, it does the same (R73, R74, R77). -/
theorem CoreStep.withOutside {s t : State} (h : CoreStep s t) {m : Memory} {es : List Event} {r : Option Response}
    {n : Nat} (alike : ∀ a, s.ReadsRaw a → (s.withOutside m es r n).rawV a = s.rawV a) :
    CoreStep (s.withOutside m es r n) (t.withOutside m es r n) := by
  cases h with
  | rest hs => exact .rest hs
  | hdr hs => exact hdrStep_withOutside hs alike ▸ .hdr hs
  | opening hs => exact openStep_withOutside m es r n s Config.params ▸ .opening hs
  | copy hs hr => exact runRepStep_withOutside m es r n s ▸ .copy hs hr
  | lit hs hr hp hb =>
    have byte := alike _ (.token hs hp)
    rw [← byte] at hb ⊢
    exact litStep_withOutside m es r n s _ ▸ .lit hs hr hp hb
  | run hs hr hp hb =>
    have marker := alike _ (.token hs (Nat.lt_of_succ_lt hp))
    have value := alike _ (.token hs hp)
    rw [← marker] at hb ⊢
    rw [← value]
    exact .run hs hr hp hb
  | dangling hs hr hp hb =>
    have marker := alike _ (.token hs (Nat.lt_of_succ_le hp.le))
    rw [← marker] at hb
    exact .dangling hs hr hp hb
  | close hs hr hp => exact closeStep_withOutside m es r n s ▸ .close hs hr hp
  | quant hs hi =>
    have byte := alike _ (.palette hs hi)
    rw [← byte]
    exact .quant hs hi
  | finish hs hi => exact .finish hs hi

/-- Settles O48: the writes by what a turn can leave in `PIX` and `PAL`, the reads by replacing `RAW`. -/
theorem coreStaysInBounds : Obligations.CoreStaysInBounds := by
  intro s t hinv ht
  have hc := coreTurn_next_iff.mp ht
  refine ⟨fun ok a ha => ?_, fun ok a ha => ?_, fun m alike => ?_⟩
  · rcases hc.pix_cases ok with same | ⟨hs, hw, v, written⟩
    · exact absurd (congrArg (Memory.read · a) same) ha
    · rw [written] at ha
      have at_wp := Memory.eq_of_read_write_ne ha
      obtain ⟨-, -, -, -, cap, -⟩ := hinv.ranges.pixels (congrArg Stage.hasPixels hs)
      exact ⟨hs, at_wp, at_wp ▸ hw, cap⟩
  · rcases hc.pal_cases ok with same | ⟨hs, hi, v, written⟩
    · exact absurd (congrArg (Memory.read · a) same) ha
    · rw [written] at ha
      have at_pi := Memory.eq_of_read_write_ne ha
      exact ⟨hs, at_pi, at_pi ▸ hi⟩
  · obtain ⟨-, -, -, inputs, port, draws⟩ := hc.frame
    have moved := hc.withOutside (m := m) (es := s.inputs) (r := s.port) (n := s.draws)
      fun a ha => alike a (hinv.lt_len_of_readsRaw ha)
    have other_raw : { t with raw := m } = t.withOutside m s.inputs s.port s.draws := by
      rw [← inputs, ← port, ← draws]
      rfl
    exact other_raw ▸ coreTurn_of_coreStep moved

/-! ## HOST during a run -/

/-- Outside `IDLE` a move of HOST changes nothing of CORE, except `CLEAR` at the end of a run (R190, R196). -/
theorem HostStep.coreOnly_eq {s t : State} {m : HostMove} (h : HostStep s m t) (running : s.stage ≠ .idle)
    (not_cleared : s.stage.busy = true ∨ m ≠ .clear) : t.coreOnly = s.coreOnly := by
  cases h with
  | start hs | writeLen _ hs | writeRaw _ _ hs => exact absurd hs running
  | clear hs =>
    rcases not_cleared with busy | ne
    · rcases hs with hs | hs <;> exact absurd busy (by rw [hs]; decide)
    · exact absurd rfl ne
  | ignored | answered | answeredFree => rfl

theorem Stage.ne_idle_of_busy {g : Stage} (busy : g.busy = true) : g ≠ .idle := by
  rintro rfl
  cases busy

/-- Settles O28: a move of HOST changes its own side only, and CORE's turn does not depend on that side. -/
theorem hostCannotDisturbARun : Obligations.HostCannotDisturbARun := by
  refine ⟨fun s m busy => ?_, fun s t ht => ?_⟩
  · obtain ⟨t, ht, hm⟩ := host_step m s
    exact ⟨t, ht, hm.coreOnly_eq (Stage.ne_idle_of_busy busy) (.inl busy)⟩
  · have hc := coreTurn_next_iff.mp ht
    obtain ⟨-, raw, -, host_side⟩ := hc.frame
    have blanked := hc.withOutside (m := s.raw) (es := []) (r := none) (n := 0) fun _ _ => rfl
    have core_part : t.coreOnly = t.withOutside s.raw [] none 0 := by
      rw [← raw]
      rfl
    exact ⟨core_part ▸ coreTurn_of_coreStep blanked, host_side⟩

/-- Settles O47: CORE's turn keeps the input; of HOST's moves outside `IDLE`, only `CLEAR` at the end of a run does
not. -/
theorem nothingWritesTheInputDuringARun : Obligations.NothingWritesTheInputDuringARun := by
  refine ⟨fun s t ht => (coreTurn_next_iff.mp ht).input_eq, fun s t running no_reset no_clear ht => ?_⟩
  rcases step_cases ht with ⟨_, hc⟩ | ⟨e, es, next, ⟨_, hc⟩ | ⟨m, rfl, hm⟩ | ⟨rfl, _⟩⟩
  · exact hc.input_eq
  · exact CoreStep.input_eq (s := { s with inputs := es }) hc
  · have not_cleared : s.stage.busy = true ∨ m ≠ .clear := no_clear.imp_right fun no_clear => by
      rintro rfl
      exact no_clear es next
    have same := (hostStep_of_exec hm).coreOnly_eq running not_cleared
    have len := congrArg State.len same
    have raw := congrArg State.raw same
    exact ⟨len, raw⟩
  · exact absurd next (no_reset es)

end Sys2Proof.Machine
end

section
/-! Proofs of the family `30_encoding.md`: the decoder and the encoder are inverse to each other (R104 to R110), the
first-byte map (R108), the streams of the pseudo-token `REP` (R114), and the table word placed where CORE fetches it
(R154). -/

namespace Sys2Proof.Machine

/-! ## Tokens -/

/-- The row `LIT.00` as a range of the byte (R108). -/
theorem literal_eq_lit00 {v : Byte} (h : v.toNat < 64) : literal v = .lit00 v :=
  if_pos ((row_hits v).1.mpr h)

/-- The row `LIT.01` as a range of the byte (R108). -/
theorem literal_eq_lit01 {v : Byte} (h : 64 ≤ v.toNat ∧ v.toNat < 128) : literal v = .lit01 v := by
  obtain ⟨h₀, h₁, -, -⟩ := row_hits v
  rw [literal, if_neg (by rw [h₀]; omega), if_pos (h₁.mpr h)]

/-- The row `LIT.10` as a range of the byte (R108). -/
theorem literal_eq_lit10 {v : Byte} (h : 128 ≤ v.toNat ∧ v.toNat < 192) : literal v = .lit10 v := by
  obtain ⟨h₀, h₁, h₂, -⟩ := row_hits v
  rw [literal, if_neg (by rw [h₀]; omega), if_neg (by rw [h₁]; omega), if_pos (h₂.mpr h)]

/-- The compressed region knows two forms of token: a literal byte, and a run of at least one pixel (R104, R113). -/
theorem token_cases {i : Instr} (wf : i.wf = true) (region : i.region = some .compressed) :
    (∃ b : Byte, b.toNat ≤ 192 ∧ i = literal b) ∨ ∃ n v, n ≠ 0 ∧ i = .run n v := by
  cases i with
  | lit00 v =>
    have range : v.toNat < 64 := of_decide_eq_true wf
    exact .inl ⟨v, by omega, (literal_eq_lit00 range).symm⟩
  | lit01 v =>
    have range : 64 ≤ v.toNat ∧ v.toNat < 128 := of_decide_eq_true wf
    exact .inl ⟨v, by omega, (literal_eq_lit01 range).symm⟩
  | lit10 v =>
    have range : 128 ≤ v.toNat ∧ v.toNat < 192 := of_decide_eq_true wf
    exact .inl ⟨v, by omega, (literal_eq_lit10 range).symm⟩
  | litC0 => exact .inl ⟨192, by decide, rfl⟩
  | run n v => exact .inr ⟨n, v, of_decide_eq_true wf, rfl⟩
  | _ => cases region

/-- R104: the marker of a run that is not empty lies above the literals. -/
theorem lt_runMarker_toNat {n : BitVec 6} (hn : n ≠ 0) : 192 < (runMarker n).toNat := by
  rw [runMarker_toNat]
  bv_omega

/-! ## Decoding and encoding -/

/-- What the token decoder accepts: one literal byte, or a run marker with its value byte (R107, R108). -/
theorem decodeToken_eq_ok {bs rest : List Byte} {i : Instr} (h : decodeToken bs = .ok (i, rest)) :
    (∃ b : Byte, b.toNat ≤ 192 ∧ bs = b :: rest ∧ i = literal b) ∨
      ∃ b v : Byte, 192 < b.toNat ∧ bs = b :: v :: rest ∧ i = .run (runCount b) v := by
  cases bs with
  | nil => cases h
  | cons b bs =>
    by_cases hb : b.toNat ≤ 192
    · rw [decodeToken_literal b bs hb] at h
      cases h
      exact .inl ⟨b, hb, rfl, rfl⟩
    · have marker : 192 < b.toNat := Nat.lt_of_not_le hb
      cases bs with
      | nil =>
        rw [decodeToken_dangling b marker] at h
        cases h
      | cons v bs =>
        rw [decodeToken_run b v bs marker] at h
        cases h
        exact .inr ⟨b, v, marker, rfl, rfl⟩

theorem decodePalette_eq_ok {bs rest : List Byte} {i : Instr} (h : decodePalette bs = .ok (i, rest)) :
    ∃ b, bs = b :: rest ∧ i = .palQ b := by
  cases bs with
  | nil => cases h
  | cons b bs =>
    cases h
    exact ⟨b, rfl, rfl⟩

theorem decodeToken_encode {i : Instr} (wf : i.wf = true) (region : i.region = some .compressed) (rest : List Byte) :
    decodeToken (encode i ++ rest) = .ok (i, rest) := by
  obtain ⟨b, hb, rfl⟩ | ⟨n, v, hn, rfl⟩ := token_cases wf region
  · obtain ⟨-, -, -, bytes⟩ := literal_cases b hb
    rw [bytes]
    exact decodeToken_literal b rest hb
  · have decoded := decodeToken_run (runMarker n) v rest (lt_runMarker_toNat hn)
    rwa [runCount_runMarker] at decoded

/-- Settles O34: in the compressed region by the two forms of token, in the palette block by the one row. -/
theorem decodeOfEncodeIsIdentity : Obligations.DecodeOfEncodeIsIdentity := by
  intro i r rest wf region
  cases r with
  | compressed => exact decodeToken_encode wf region rest
  | palette =>
    cases i with
    | palQ v => rfl
    | _ => cases region

/-- Settles O35: each form that a decoder accepts is the encoding of what it answers. -/
theorem encodeOfDecodeIsIdentity : Obligations.EncodeOfDecodeIsIdentity := by
  intro i r bs rest h
  cases r with
  | compressed =>
    obtain ⟨b, hb, rfl, rfl⟩ | ⟨b, v, hb, rfl, rfl⟩ := decodeToken_eq_ok h
    · obtain ⟨-, wf, region, bytes⟩ := literal_cases b hb
      exact ⟨by rw [bytes]; rfl, wf, region⟩
    · exact ⟨by rw [encode, runMarker_runCount b hb]; rfl, decide_eq_true (runCount_ne_zero hb), rfl⟩
  | palette =>
    obtain ⟨b, rfl, rfl⟩ := decodePalette_eq_ok h
    exact ⟨rfl, rfl, rfl⟩

/-- Settles O32: each word is the encoding of its instruction. -/
theorem specWordsDecode : Obligations.SpecWordsDecode :=
  have decoded := decodeOfEncodeIsIdentity
  ⟨decoded (.lit00 5) .compressed [] rfl rfl, decoded (.lit01 64) .compressed [] rfl rfl,
    decoded (.lit10 191) .compressed [] rfl rfl, decoded .litC0 .compressed [192] rfl rfl,
    decoded (.run 1 193) .compressed [] rfl rfl, decoded (.run 63 0) .compressed [] rfl rfl,
    decoded (.palQ 255) .palette [] rfl rfl⟩

/-- Settles O33: the bytes up to 192 are the literals, and a byte above it is the marker of its count. -/
theorem firstByteMapIsTotal : Obligations.FirstByteMapIsTotal := by
  intro b rest
  refine ⟨fun hb => ?_, fun hb => ?_, fun hb => ?_⟩
  · obtain ⟨-, -, -, bytes⟩ := literal_cases b hb.le
    exact ⟨decodeToken_literal b rest hb.le, bytes⟩
  · obtain rfl := byte_eq_192 b hb
    exact decodeToken_literal 192 rest hb.le
  · have count := runCount_toNat b hb
    have range := b.isLt
    refine ⟨runCount b, count, by omega, by omega, ?_, ?_⟩
    · rintro v rest' rfl
      exact decodeToken_run b v rest' hb
    · rintro rfl
      exact decodeToken_dangling b hb

/-! ## The streams of `REP` -/

/-- R160's clause for a run that fits. -/
theorem decodeStream_marker {cnt : Nat} {b : Byte} (v : Byte) (rest : List Byte) {out : List Byte} (hb : 192 < b.toNat)
    (fits : out.length + (b.toNat - 192) ≤ cnt) :
    decodeStream cnt (b :: v :: rest) out = decodeStream cnt rest (out ++ List.replicate (b.toNat - 192) v) := by
  rw [decodeStream, if_neg (Nat.not_le.mpr hb), if_neg (Nat.not_lt.mpr fits)]

/-- R160 and R104: the bytes of `RUN n, v` stand for `n` pixels. -/
theorem decodeStream_run {cnt : Nat} {n : BitVec 6} (v : Byte) (rest : List Byte) {out : List Byte} (hn : n ≠ 0)
    (fits : out.length + n.toNat ≤ cnt) :
    decodeStream cnt (encode (.run n v) ++ rest) out = decodeStream cnt rest (out ++ List.replicate n.toNat v) := by
  have count : (runMarker n).toNat - 192 = n.toNat := by rw [runMarker_toNat, Nat.add_sub_cancel_left]
  have decoded := decodeStream_marker (cnt := cnt) (out := out) v rest (lt_runMarker_toNat hn) (by rwa [count])
  rwa [count] at decoded

/-- R114: a `REP` that one token holds. -/
theorem repTokens_of_lt {m : Nat} (v : Byte) (pos : 1 ≤ m) (h : m < 63) :
    repTokens m v = [.run (BitVec.ofNat 6 m) v] := by
  rw [repTokens, Nat.div_eq_of_lt h, Nat.mod_eq_of_lt h, if_neg (by omega)]
  rfl

/-- R114: a longer `REP` begins with a full run. -/
theorem repTokens_add (m : Nat) (v : Byte) : repTokens (m + 63) v = .run 63 v :: repTokens m v := by
  rw [repTokens, Nat.add_div_right m (by decide), Nat.add_mod_right]
  rfl

/-- `REP m, v` for every `m`, 0 included, by strong induction: take off full runs until one token holds the rest. -/
theorem decodeStream_repTokens {cnt : Nat} (m : Nat) (v : Byte) (rest out : List Byte) (fits : out.length + m ≤ cnt) :
    decodeStream cnt (encodeAll (repTokens m v) ++ rest) out = decodeStream cnt rest (out ++ List.replicate m v) := by
  induction m using Nat.strong_induction_on generalizing out with
  | _ m ih =>
  rcases Nat.lt_or_ge m 63 with short | long
  · rcases Nat.eq_zero_or_pos m with rfl | pos
    · simp [repTokens, encodeAll]
    · have count : (BitVec.ofNat 6 m).toNat = m := Nat.mod_eq_of_lt (by omega)
      have token := decodeStream_run (cnt := cnt) (n := BitVec.ofNat 6 m) (out := out) v rest (by bv_omega)
        (by rwa [count])
      rw [count] at token
      simpa [repTokens_of_lt v pos short, encodeAll] using token
  · obtain ⟨k, rfl⟩ := Nat.exists_eq_add_of_le' long
    calc decodeStream cnt (encodeAll (repTokens (k + 63) v) ++ rest) out
      _ = decodeStream cnt (encode (.run 63 v) ++ (encodeAll (repTokens k v) ++ rest)) out := by
        rw [repTokens_add, encodeAll, List.flatMap_cons, List.append_assoc, encodeAll]
      _ = decodeStream cnt (encodeAll (repTokens k v) ++ rest) (out ++ List.replicate 63 v) :=
        decodeStream_run (n := 63) v _ (by decide) (by change _ + 63 ≤ _; omega)
      _ = decodeStream cnt rest (out ++ List.replicate 63 v ++ List.replicate k v) :=
        ih k (by omega) _ (by rw [List.length_append, List.length_replicate]; omega)
      _ = decodeStream cnt rest (out ++ List.replicate (k + 63) v) := by
        rw [List.append_assoc, List.replicate_append_replicate, Nat.add_comm]

/-- Settles O37: the pixels fit, so every run of the stream fits when its turn comes. -/
theorem repeatStreamsDecodeToTheirRun : Obligations.RepeatStreamsDecodeToTheirRun :=
  fun m _ v rest out _ fits => decodeStream_repTokens m v rest out fits

/-! ## The placed word -/

/-- A placed token waits to be fetched (R154). -/
theorem fetchEnabled_placeToken (s : State) (bs : List Byte) : fetchEnabled (placeToken s bs) :=
  ⟨rfl, rfl, (by decide : 128 < 898 - 768)⟩

/-- The two placed bytes are the whole compressed region. -/
theorem fetchBytes_placeToken (s : State) (b v : Byte) : fetchBytes (placeToken s [b, v]) = [b, v] := by
  have first : (placeToken s [b, v]).rawV 128 = b := by
    simp [placeToken, State.rawV, Memory.read_write_other]
  have second : (placeToken s [b, v]).rawV 129 = v := by
    simp [placeToken, State.rawV]
  calc fetchBytes (placeToken s [b, v])
    _ = [(placeToken s [b, v]).rawV 128, (placeToken s [b, v]).rawV 129] := if_pos (by decide : 128 + 1 < 898 - 768)
    _ = [b, v] := by rw [first, second]

/-- What the decoder reads from a table word, it reads from the word's bytes in the compressed region. -/
theorem decode_of_decodeTableWord {nbits w : Nat} {i : Instr} (h : decodeTableWord nbits w = some i) :
    ∃ rest, decode .compressed (tableBytes nbits w) = .ok (i, rest) := by
  unfold decodeTableWord at h
  split at h
  · cases h
  · split at h
    next _ rest decoded =>
      cases h
      exact ⟨rest, decoded⟩
    · cases h

/-- Settles O39: the schedule is empty, so the step is CORE's turn, and its token fetch finds the word's bytes. -/
theorem placedWordIsTheNextInstruction : Obligations.PlacedWordIsTheNextInstruction := by
  intro s nbits w i h
  obtain ⟨rest, decoded⟩ := decode_of_decodeTableWord h
  have enabled : fetchEnabled (s.withFetchWord nbits w) := fetchEnabled_placeToken s _
  have fetched : fetchBytes (s.withFetchWord nbits w) = tableBytes nbits w := fetchBytes_placeToken s _ _
  have selected : selectCore (s.withFetchWord nbits w) = .op i := by
    rw [selectCore_fetch _ enabled, fetched, decoded]
    rfl
  calc step (s.withFetchWord nbits w)
    _ = coreTurn (s.withFetchWord nbits w) := rfl
    _ = exec i (s.withFetchWord nbits w) := by rw [coreTurn, selected]

end Sys2Proof.Machine
end

section
/-! Proofs of the family `40_header_parser.md`: the `HDR` step, its three operations, and the header cells it reads
(R130 to R135); and the frame of the operations that store nothing. -/

namespace Sys2Proof.Machine

/-! ## When an operation answers

Each operation that stores nothing answers its effect, exactly while its select condition holds (R154, R197). -/

section
variable {s t : State}

theorem exec_run_next {n : BitVec 6} {v : Byte} :
    exec (.run n v) s = .next t ↔ fetchEnabled s ∧ runStep n v s = t := whenEnabled_next

theorem exec_rleOpen_next :
    exec .rleOpen s = .next t ↔ s.stage = .opening ∧ openStep Config.params s = t := whenEnabled_next

theorem exec_rleClose_next :
    exec .rleClose s = .next t ↔
      (s.stage = .rle ∧ s.rcV = 0 ∧ s.rpV.toNat = endOff s) ∧ closeStep s = t := whenEnabled_next

theorem exec_hdrLen_next : exec .hdrLen s = .next t ↔ s.stage = .hdr ∧ hdrLenStep s = t := whenEnabled_next

theorem exec_hdrUnpack_next :
    exec .hdrUnpack s = .next t ↔ s.stage = .hdr ∧ unpackStep Config.params s = t := whenEnabled_next

theorem exec_hdrCheck_next : exec .hdrCheck s = .next t ↔ s.stage = .hdr ∧ hdrCheckStep s = t := whenEnabled_next

theorem exec_hdr_next : exec .hdr s = .next t ↔ s.stage = .hdr ∧ hdrStep Config.params s = t := whenEnabled_next

theorem exec_palClose_next :
    exec .palClose s = .next t ↔ (s.stage = .pal ∧ s.piV.toNat = 768) ∧ palCloseStep s = t := whenEnabled_next

end

/-! ## What an operation leaves when it raises nothing -/

/-- R157: `RUN` loads the run registers and passes its two bytes. -/
theorem runStep_of_ok {n : BitVec 6} {v : Byte} {s : State} (ok : (runStep n v s).stage ≠ .fault) :
    runStep n v s = { s with rc := some n, rv := some v, rp := some (s.rpV + 2) } := by
  rcases runStep_cases n v s with ⟨_, e⟩ | ⟨_, e⟩
  · exact absurd (congrArg State.stage e) ok
  · exact e

/-- R150: `RLE.OPEN` sets the pixel count and the registers of the RLE stage. -/
theorem openStep_of_ok {p : Config.Params} {s : State} (ok : (openStep p s).stage ≠ .fault) :
    openStep p s =
      { s with
        pixcnt := some (BitVec.ofInt 31 (pixelProduct s)), rp := some 128, wp := some 0, rc := some 0
        stage := .rle } := by
  rcases openStep_cases p s with ⟨_, e⟩ | ⟨_, _, e⟩ | ⟨_, _, _, _, e⟩
  · exact absurd (congrArg State.stage e) ok
  · exact absurd (congrArg State.stage e) ok
  · exact e

/-- R158: `RLE.CLOSE` begins the PAL stage. -/
theorem closeStep_of_ok {s : State} (ok : (closeStep s).stage ≠ .fault) :
    closeStep s = { s with pi := some 0, stage := .pal, rp := none, rc := none, rv := none } := by
  rcases closeStep_cases s with ⟨_, e⟩ | ⟨_, e⟩
  · exact absurd (congrArg State.stage e) ok
  · exact e

/-- R131: `HDR.LEN` writes nothing. -/
theorem hdrLenStep_of_ok {s : State} (ok : (hdrLenStep s).stage ≠ .fault) : hdrLenStep s = s := by
  by_cases short : s.lenV.toNat < 128
  · have raised : hdrLenStep s = raise .truncatedFile s := if_pos short
    exact absurd (congrArg State.stage raised) ok
  · exact if_neg short

/-- R133: `HDR.CHECK` writes `STATE` alone. -/
theorem hdrCheckStep_of_ok {s : State} (ok : (hdrCheckStep s).stage ≠ .fault) :
    hdrCheckStep s = { s with stage := .opening } := by
  by_cases depth : s.bppV ≠ 8
  · have raised : hdrCheckStep s = raise .unsupportedFormat s := if_pos depth
    exact absurd (congrArg State.stage raised) ok
  · exact if_neg depth

/-- R130: `HDR` latches the three fields and derives the dimensions. -/
theorem hdrStep_of_ok {p : Config.Params} {s : State} (hs : s.stage = .hdr) (ok : (hdrStep p s).stage ≠ .fault) :
    hdrStep p s = headerLatched p s := by
  rcases hdrStep_cases p s hs with ⟨_, e⟩ | ⟨_, _, e⟩ | ⟨_, _, e⟩
  · exact absurd (congrArg State.stage e) ok
  · exact absurd (congrArg State.stage e) ok
  · exact e

/-! ## The cells that `HDR` reads -/

/-- The five cells of the three relevant fields (R134). -/
abbrev IsHeaderCell (p : Config.Params) (a : Nat) : Prop :=
  a = 3 ∨ a = p.offXmax ∨ a = p.offXmax + 1 ∨ a = p.offYmax ∨ a = p.offYmax + 1

section
variable {p : Config.Params} {s : State} {m : Memory}
  (alike : ∀ a, IsHeaderCell p a → State.rawV { s with raw := m } a = s.rawV a)
include alike

theorem headerLatched_withRaw :
    headerLatched p { s with raw := m } = { headerLatched p s with raw := m } := by
  have field_alike {off : Nat} (low : IsHeaderCell p off) (high : IsHeaderCell p (off + 1)) :
      le16 { s with raw := m } off = le16 s off := by
    rw [le16, le16, alike off low, alike (off + 1) high]
  have depth : State.rawV { s with raw := m } Config.offBpp = s.rawV Config.offBpp := alike 3 (.inl rfl)
  have xmax := field_alike (.inr (.inl rfl)) (.inr (.inr (.inl rfl)))
  have ymax := field_alike (.inr (.inr (.inr (.inl rfl)))) (.inr (.inr (.inr (.inr rfl))))
  rw [headerLatched, unpackStep, depth, xmax, ymax]
  rfl

/-- Both tests of `HDR`, like what it latches, see the five cells alone. -/
theorem hdrStep_withRaw (hs : s.stage = .hdr) :
    hdrStep p { s with raw := m } = { hdrStep p s with raw := m } := by
  have same_len : State.lenV { s with raw := m } = s.lenV := rfl
  rw [hdrStep_eq p hs, hdrStep_eq p (s := { s with raw := m }) hs, same_len, alike 3 (.inl rfl),
    headerLatched_withRaw alike]
  split_ifs <;> rfl

end

/-- Settles O10: the tests and the latched values read the five cells alone. -/
theorem headerStepReadsFiveBytes : Obligations.HeaderStepReadsFiveBytes := by
  intro s t m alike h
  obtain ⟨hs, rfl⟩ := exec_hdr_next.mp h
  exact exec_hdr_next.mpr ⟨hs, hdrStep_withRaw alike hs⟩

/-! ## The header step and its operations -/

/-- Settles O5: the three cases of `HDR`, in the order of its tests. -/
theorem headerStepParsesOrFaults : Obligations.HeaderStepParsesOrFaults := by
  intro s hs
  have outcomes := hdrStep_eq Config.params hs
  refine ⟨(coreTurn_hdr s hs).trans (exec_hdr_next.mpr ⟨hs, rfl⟩).symm,
    fun short => exec_hdr_next.mpr ⟨hs, ?_⟩, fun long depth => exec_hdr_next.mpr ⟨hs, ?_⟩,
    fun long depth => exec_hdr_next.mpr ⟨hs, ?_⟩⟩
  · rw [outcomes, if_pos short]
  · rw [outcomes, if_neg (Nat.not_lt.mpr long), if_neg depth]
  · rw [outcomes, if_neg (Nat.not_lt.mpr long), if_pos depth]
    rfl

/-- Settles O6: each operation is enabled in HDR, and `HDR.LEN` and `HDR.CHECK` have one test each. -/
theorem headerOperationsByThemselves : Obligations.HeaderOperationsByThemselves := fun _ hs =>
  ⟨fun short => exec_hdrLen_next.mpr ⟨hs, if_pos short⟩,
    fun long => exec_hdrLen_next.mpr ⟨hs, if_neg (Nat.not_lt.mpr long)⟩,
    exec_hdrUnpack_next.mpr ⟨hs, rfl⟩,
    fun depth => exec_hdrCheck_next.mpr ⟨hs, if_pos depth⟩,
    fun depth => exec_hdrCheck_next.mpr ⟨hs, if_neg (not_not.mpr depth)⟩⟩

/-- Settles O7: where `HDR.LEN` raises nothing it leaves the state as it was, so `HDR.UNPACK` and `HDR.CHECK` are
enabled after it. -/
theorem headerStepIsItsThreeOperations : Obligations.HeaderStepIsItsThreeOperations := by
  intro s t hs h
  obtain ⟨-, rfl⟩ := exec_hdrLen_next.mp h
  refine ⟨fun faulted => exec_hdr_next.mpr ⟨hs, if_pos faulted⟩, fun ok => ?_⟩
  have enabled : (hdrLenStep s).stage = .hdr := (congrArg State.stage (hdrLenStep_of_ok ok)).trans hs
  have unpacked : (unpackStep Config.params (hdrLenStep s)).stage = .hdr := enabled
  refine ⟨unpackStep Config.params (hdrLenStep s), exec_hdrUnpack_next.mpr ⟨enabled, rfl⟩, ?_⟩
  calc exec .hdr s
    _ = .next (hdrCheckStep (unpackStep Config.params (hdrLenStep s))) := exec_hdr_next.mpr ⟨hs, if_neg ok⟩
    _ = exec .hdrCheck (unpackStep Config.params (hdrLenStep s)) := (exec_hdrCheck_next.mpr ⟨unpacked, rfl⟩).symm

/-! ## The operations that store nothing -/

/-- The operations of CORE that write registers only. -/
abbrev StoresNothing (i : Instr) : Prop :=
  (∃ n v, i = .run n v) ∨ i = .rleOpen ∨ i = .rleClose ∨ i = .hdrLen ∨ i = .hdrUnpack ∨ i = .hdrCheck ∨
    i = .hdr ∨ i = .palClose

section
variable {s t : State}

/-- `HDR.UNPACK` raises nothing. -/
theorem exec_hdrUnpack_frame (h : exec .hdrUnpack s = .next t) :
    t = { s with bpp := t.bpp, xmax := t.xmax, ymax := t.ymax, width := t.width, height := t.height } := by
  obtain ⟨-, rfl⟩ := exec_hdrUnpack_next.mp h
  rfl

/-- `PAL.CLOSE` raises nothing (R180). -/
theorem exec_palClose_frame (h : exec .palClose s = .next t) : t = { s with stage := t.stage, pi := t.pi } := by
  obtain ⟨-, rfl⟩ := exec_palClose_next.mp h
  rfl

variable (ok : t.stage ≠ .fault)
include ok

theorem exec_run_frame {n : BitVec 6} {v : Byte} (h : exec (.run n v) s = .next t) :
    t = { s with rc := t.rc, rv := t.rv, rp := t.rp } := by
  obtain ⟨-, rfl⟩ := exec_run_next.mp h
  rw [runStep_of_ok ok]

theorem exec_rleOpen_frame (h : exec .rleOpen s = .next t) :
    t = { s with pixcnt := t.pixcnt, rp := t.rp, wp := t.wp, rc := t.rc, stage := t.stage } := by
  obtain ⟨-, rfl⟩ := exec_rleOpen_next.mp h
  rw [openStep_of_ok ok]

theorem exec_rleClose_frame (h : exec .rleClose s = .next t) :
    t = { s with pi := t.pi, stage := t.stage, rp := t.rp, rc := t.rc, rv := t.rv } := by
  obtain ⟨-, rfl⟩ := exec_rleClose_next.mp h
  rw [closeStep_of_ok ok]

theorem exec_hdrLen_frame (h : exec .hdrLen s = .next t) : t = s := by
  obtain ⟨-, rfl⟩ := exec_hdrLen_next.mp h
  exact hdrLenStep_of_ok ok

theorem exec_hdrCheck_frame (h : exec .hdrCheck s = .next t) : t = { s with stage := t.stage } := by
  obtain ⟨-, rfl⟩ := exec_hdrCheck_next.mp h
  rw [hdrCheckStep_of_ok ok]

theorem exec_hdr_frame (h : exec .hdr s = .next t) :
    t = { s with
      bpp := t.bpp, xmax := t.xmax, ymax := t.ymax, width := t.width, height := t.height, stage := t.stage } := by
  obtain ⟨hs, rfl⟩ := exec_hdr_next.mp h
  rw [hdrStep_of_ok hs ok]
  rfl

end

/-- An operation that stores nothing leaves the three memories as they were, by its frame. -/
theorem StoresNothing.memories_eq {i : Instr} (hi : StoresNothing i) {s t : State} (ok : t.stage ≠ .fault)
    (h : exec i s = .next t) : t.raw = s.raw ∧ t.pix = s.pix ∧ t.pal = s.pal := by
  rcases hi with ⟨n, v, rfl⟩ | rfl | rfl | rfl | rfl | rfl | rfl | rfl
  · rw [exec_run_frame ok h]; exact ⟨rfl, rfl, rfl⟩
  · rw [exec_rleOpen_frame ok h]; exact ⟨rfl, rfl, rfl⟩
  · rw [exec_rleClose_frame ok h]; exact ⟨rfl, rfl, rfl⟩
  · rw [exec_hdrLen_frame ok h]; exact ⟨rfl, rfl, rfl⟩
  · rw [exec_hdrUnpack_frame h]; exact ⟨rfl, rfl, rfl⟩
  · rw [exec_hdrCheck_frame ok h]; exact ⟨rfl, rfl, rfl⟩
  · rw [exec_hdr_frame ok h]; exact ⟨rfl, rfl, rfl⟩
  · rw [exec_palClose_frame h]; exact ⟨rfl, rfl, rfl⟩

/-- Settles O44: the frame of each operation, and with it that of the memories' cells. -/
theorem registerOperationsFrame : Obligations.RegisterOperationsFrame := by
  refine fun s t ok => ⟨fun _ _ => exec_run_frame ok, exec_rleOpen_frame ok, exec_rleClose_frame ok,
    exec_hdrLen_frame ok, exec_hdrUnpack_frame, exec_hdrCheck_frame ok, exec_hdr_frame ok, exec_palClose_frame,
    fun i hi h a => ?_⟩
  obtain ⟨raw, pix, pal⟩ := StoresNothing.memories_eq hi ok h
  rw [raw, pix, pal]
  exact ⟨rfl, rfl, rfl⟩

end Sys2Proof.Machine
end

section
/-! Proofs of the family `41_rle_decoder.md`: `RLE.OPEN`, the token fetch and `RUN.REP`, `RLE.CLOSE` (R150 to R159),
the frame of the operations that write pixels, and the whole stage as `decode(S, [])` (R160, R161). -/

namespace Sys2Proof.Machine

/-! ## A turn runs the selected operation -/

theorem coreTurn_of_op {s : State} {i : Instr} (h : selectCore s = .op i) : coreTurn s = exec i s := by
  rw [coreTurn, h]

theorem selectCore_copy (s : State) (h : s.stage = .rle) (hr : s.rcV ≠ 0) : selectCore s = .op .runRep := by
  rw [selectCore, h]
  exact if_pos hr

theorem selectCore_quant (s : State) (h : s.stage = .pal) (hi : s.piV.toNat < 768) :
    selectCore s = selectDecoded (decode .palette (paletteBytes s)) := by
  rw [selectCore, h]
  exact if_pos hi

theorem step_of_unscheduled {s : State} (h : s.inputs = []) : step s = coreTurn s := by
  rw [step, h]

theorem step_of_scheduled {s : State} {e : Event} {es : List Event} (h : s.inputs = e :: es) :
    step s = turn e { s with inputs := es } := by
  rw [step, h]

/-- Settles O38: a step by the head of the schedule, and a fetch by what the decoder answers. -/
theorem stepRunsTheDecodedInstruction : Obligations.StepRunsTheDecodedInstruction := by
  refine fun s => ⟨step_of_unscheduled, fun _ => step_of_scheduled, fun _ _ => step_of_scheduled,
    fun i rest hs hr hp decoded => coreTurn_of_op ?_, fun i rest hs hi decoded => coreTurn_of_op ?_, fun resting => ?_⟩
  · rw [selectCore_fetch s ⟨hs, hr, hp⟩, decoded, selectDecoded]
  · rw [selectCore_quant s hs hi, decoded, selectDecoded]
  · refine coreTurn_rest s ?_
    rcases resting with hs | hs | hs <;> rw [hs] <;> rfl

/-! ## The operations of the stage -/

section
variable {s t : State}

theorem exec_runRep_next : exec .runRep s = .next t ↔ (s.stage = .rle ∧ s.rcV ≠ 0) ∧ runRepStep s = t :=
  whenEnabled_next

/-- Instruction `i` is `LIT v`, in one of the table's four rows (R113, R115). -/
abbrev IsLiteral (i : Instr) (v : Byte) : Prop :=
  i = .lit00 v ∨ i = .lit01 v ∨ i = .lit10 v ∨ (i = .litC0 ∧ v = 192)

/-- The four rows of `LIT` do the same (R156). -/
theorem exec_isLiteral_next {i : Instr} {v : Byte} (h : IsLiteral i v) :
    exec i s = .next t ↔ fetchEnabled s ∧ litStep v s = t := by
  rcases h with rfl | rfl | rfl | ⟨rfl, rfl⟩
  · exact whenEnabled_next
  · exact whenEnabled_next
  · exact whenEnabled_next
  · exact whenEnabled_next

/-- R156: `LIT` writes its pixel and passes its byte. -/
theorem litStep_of_ok {v : Byte} (ok : (litStep v s).stage ≠ .fault) :
    litStep v s = { emit v s with rp := some (s.rpV + 1) } := by
  rcases litStep_cases v s with ⟨_, e⟩ | ⟨_, e⟩
  · exact absurd (congrArg State.stage e) ok
  · exact e

/-- R159: `RUN.REP` writes one copy and counts down. -/
theorem runRepStep_of_ok (ok : (runRepStep s).stage ≠ .fault) :
    runRepStep s = { emit s.rvV s with rc := some (s.rcV - 1), rv := if s.rcV = 1 then none else s.rv } := by
  rcases runRepStep_cases s with ⟨_, e⟩ | ⟨_, e⟩
  · exact absurd (congrArg State.stage e) ok
  · exact e

end

/-- Settles O43: both operations leave what `emit` leaves, but for the pointers. -/
theorem pixelWritersFrame : Obligations.PixelWritersFrame := by
  refine fun s t ok => ⟨fun i v hi h => ?_, fun h => ?_⟩
  · obtain ⟨-, rfl⟩ := (exec_isLiteral_next hi).mp h
    rw [litStep_of_ok ok]
    exact ⟨rfl, Memory.read_write_same .., fun _ => Memory.read_write_other _ _, fun _ => ⟨rfl, rfl⟩⟩
  · obtain ⟨-, rfl⟩ := exec_runRep_next.mp h
    rw [runRepStep_of_ok ok]
    exact ⟨rfl, fun more => if_neg more, Memory.read_write_same .., fun _ => Memory.read_write_other _ _,
      fun _ => ⟨rfl, rfl⟩⟩

/-- Settles O11: the three tests of `RLE.OPEN` in their order; past them the product fits `PIXCNT`. -/
theorem openSizesTheBufferOrFaults : Obligations.OpenSizesTheBufferOrFaults := by
  intro s hs
  have selected : selectCore s = .op .rleOpen := by rw [selectCore, hs]
  refine ⟨coreTurn_of_op selected, fun short => exec_rleOpen_next.mpr ⟨hs, if_pos short⟩,
    fun long flat => exec_rleOpen_next.mpr ⟨hs, ?_⟩, fun long hw hh big => exec_rleOpen_next.mpr ⟨hs, ?_⟩,
    fun long hw hh fits => ⟨_, opened_pixcnt hw hh fits, exec_rleOpen_next.mpr ⟨hs, ?_⟩⟩⟩
  · exact (if_neg (Nat.not_lt.mpr long)).trans (if_pos flat)
  · exact (if_neg (Nat.not_lt.mpr long)).trans ((if_neg (by omega)).trans (if_pos big))
  · exact (if_neg (Nat.not_lt.mpr long)).trans ((if_neg (by omega)).trans (if_neg (Int.not_lt.mpr fits)))

/-- Settles O12: each row of R154's table, and R24's bound on `rp`. -/
theorem rleStageSelectsByTheTable : Obligations.RleStageSelectsByTheTable := by
  intro s hs
  refine ⟨selectCore_copy s hs, fun hr hp => selectCore_literal s ⟨hs, hr, hp⟩, fun hr hp hb => ?_,
    fun hr hp hb => ?_, selectCore_close s hs, fun inv => (inv.ranges.region hs).2⟩
  · exact ⟨_, runCount_toNat _ hb, selectCore_run s ⟨hs, hr, Nat.lt_of_succ_lt hp⟩ hp hb⟩
  · exact ⟨_, runCount_toNat _ hb, selectCore_dangling s ⟨hs, hr, Nat.lt_of_succ_le hp.le⟩ hp hb⟩

/-- Settles O13: `LIT` has one test, and CORE's turn selects the literal of the byte it fetches. -/
theorem literalWritesOnePixel : Obligations.LiteralWritesOnePixel := fun s hs hr hp =>
  have enabled : fetchEnabled s := ⟨hs, hr, hp⟩
  ⟨fun _ _ hi =>
    ⟨fun free => (exec_isLiteral_next hi).mpr ⟨enabled, if_neg (Nat.not_le.mpr free)⟩,
      fun full => (exec_isLiteral_next hi).mpr ⟨enabled, if_pos full⟩⟩,
    fun hb => coreTurn_of_op (selectCore_literal s enabled hb)⟩

/-- Settles O14: `RUN` has one test, of the region and not of the buffer; CORE's turn makes the same test when it
fetches. -/
theorem runFetchLoadsTheCounter : Obligations.RunFetchLoadsTheCounter := by
  intro s hs hr hp
  have enabled : fetchEnabled s := ⟨hs, hr, hp⟩
  refine ⟨fun n v => ⟨fun inside => exec_run_next.mpr ⟨enabled, if_neg (Nat.not_le.mpr inside)⟩,
    fun outside => exec_run_next.mpr ⟨enabled, if_pos outside⟩⟩, fun hb => ⟨fun inside => ?_, fun outside => ?_⟩⟩
  · have count := runCount_toNat _ hb
    exact ⟨_, count, by omega, coreTurn_of_op (selectCore_run s enabled inside hb)⟩
  · exact coreTurn_dangling s enabled (Nat.le_antisymm hp outside) hb

/-- Settles O15: `RUN.REP` has one test. -/
theorem runCopyWritesOnePixel : Obligations.RunCopyWritesOnePixel := by
  intro s hs hr
  refine ⟨coreTurn_of_op (selectCore_copy s hs hr), fun free => ?_,
    fun full => exec_runRep_next.mpr ⟨⟨hs, hr⟩, if_pos full⟩⟩
  exact ⟨_, exec_runRep_next.mpr ⟨⟨hs, hr⟩, if_neg (Nat.not_le.mpr free)⟩, fun more => if_neg more, rfl⟩

/-! ## What a turn of the stage does -/

/-- CORE's turn in RLE, with the operations' own tests resolved: what it found and what it left (R154 to R159). -/
inductive RleStep (s : State) : State → Prop
  | copied (hr : s.rcV ≠ 0) (hw : s.wpV.toNat < s.pixcntV.toNat) :
      RleStep s { emit s.rvV s with rc := some (s.rcV - 1), rv := if s.rcV = 1 then none else s.rv }
  | copyFull (hr : s.rcV ≠ 0) (full : pixFull s) : RleStep s (raise .corruptData s)
  | literal (hr : s.rcV = 0) (hp : s.rpV.toNat < endOff s) (hb : (s.rawV s.rpV.toNat).toNat ≤ 192)
      (hw : s.wpV.toNat < s.pixcntV.toNat) :
      RleStep s { emit (s.rawV s.rpV.toNat) s with rp := some (s.rpV + 1) }
  | literalFull (hr : s.rcV = 0) (hp : s.rpV.toNat < endOff s) (hb : (s.rawV s.rpV.toNat).toNat ≤ 192)
      (full : pixFull s) : RleStep s (raise .corruptData s)
  | loaded (hr : s.rcV = 0) (hp : s.rpV.toNat + 1 < endOff s) (hb : 192 < (s.rawV s.rpV.toNat).toNat) :
      RleStep s { s with
        rc := some (runCount (s.rawV s.rpV.toNat)), rv := some (s.rawV (s.rpV.toNat + 1)), rp := some (s.rpV + 2) }
  | dangling (hr : s.rcV = 0) (hp : s.rpV.toNat + 1 = endOff s) (hb : 192 < (s.rawV s.rpV.toNat).toNat) :
      RleStep s (raise .truncatedFile s)
  | closed (hr : s.rcV = 0) (hp : s.rpV.toNat = endOff s) (full : pixFull s) :
      RleStep s { s with pi := some 0, stage := .pal, rp := none, rc := none, rv := none }
  | closeShort (hr : s.rcV = 0) (hp : s.rpV.toNat = endOff s) (short : s.wpV.toNat < s.pixcntV.toNat) :
      RleStep s (raise .truncatedFile s)

theorem CoreStep.rleStep {s t : State} (h : CoreStep s t) (hs : s.stage = .rle) : RleStep s t := by
  cases h with
  | rest h' =>
    rw [hs] at h'
    cases h'
  | hdr h' | opening h' | quant h' | finish h' => cases hs.symm.trans h'
  | copy _ hr =>
    rcases runRepStep_cases s with ⟨full, e⟩ | ⟨hw, e⟩
    · exact e ▸ .copyFull hr full
    · exact e ▸ .copied hr hw
  | lit _ hr hp hb =>
    rcases litStep_cases (s.rawV s.rpV.toNat) s with ⟨full, e⟩ | ⟨hw, e⟩
    · exact e ▸ .literalFull hr hp hb full
    · exact e ▸ .literal hr hp hb hw
  | run _ hr hp hb => exact .loaded hr hp hb
  | dangling _ hr hp hb => exact .dangling hr hp hb
  | close _ hr hp =>
    rcases closeStep_cases s with ⟨short, e⟩ | ⟨full, e⟩
    · exact e ▸ .closeShort hr hp short
    · exact e ▸ .closed hr hp full

/-- R154: one of the table's rows always applies, as `rp` does not pass `END` (R24). -/
theorem State.Inv.exists_coreStep_of_rle {s : State} (inv : s.Inv) (hs : s.stage = .rle) : ∃ t, CoreStep s t := by
  obtain ⟨-, within⟩ := inv.ranges.region hs
  by_cases hr : s.rcV = 0
  · rcases within.lt_or_eq with hp | hp
    · by_cases hb : (s.rawV s.rpV.toNat).toNat ≤ 192
      · exact ⟨_, .lit hs hr hp hb⟩
      · rcases Nat.lt_or_eq_of_le hp with inside | last
        · exact ⟨_, .run hs hr inside (Nat.lt_of_not_le hb)⟩
        · exact ⟨_, .dangling hs hr last (Nat.lt_of_not_le hb)⟩
    · exact ⟨_, .close hs hr hp⟩
  · exact ⟨_, .copy hs hr⟩

/-- R24: `rp` counts the bytes it passes, as `END` is a 32-bit number. -/
theorem rpV_add_toNat {s : State} {k : BitVec 32} (hk : s.rpV.toNat + k.toNat ≤ endOff s) :
    (s.rpV + k).toNat = s.rpV.toNat + k.toNat :=
  have end_lt : endOff s < 2 ^ 32 := (Nat.sub_le _ _).trans_lt s.lenV.isLt
  BitVec.toNat_add_of_lt (hk.trans_lt end_lt)

/-- R26: `rc` counts down. -/
theorem rcV_pred_toNat {s : State} (hr : s.rcV ≠ 0) : (s.rcV - 1).toNat + 1 = s.rcV.toNat := by bv_omega

/-- In RLE the buffer never holds more than `PIXCNT` pixels (R25). -/
theorem State.Inv.wpV_le {s : State} (inv : s.Inv) (hs : s.stage = .rle) : s.wpV.toNat ≤ s.pixcntV.toNat := by
  obtain ⟨-, -, -, -, -, hw⟩ := inv.ranges.pixels (congrArg Stage.hasPixels hs)
  exact hw

/-- In RLE the cells `0 .. wp-1` of `PIX` are those written (R20). -/
theorem State.Inv.pix_addresses {s : State} (inv : s.Inv) (hs : s.stage = .rle) :
    s.pix.addresses = List.range s.wpV.toNat := by
  have table := inv.presence.pix
  rwa [hs] at table

/-- Settles O17: `RUN.REP` moves `rc`, a token fetch moves `rp`, `RLE.CLOSE` ends the stage, and the rest are faults. -/
theorem everyRleStepMakesProgress : Obligations.EveryRleStepMakesProgress := by
  intro s t inv hs ht
  cases (coreTurn_next_iff.mp ht).rleStep hs with
  | copyFull | literalFull | dangling | closeShort => exact .inl rfl
  | closed hr hp full =>
    exact .inr (.inl ⟨rfl, hr, hp, BitVec.eq_of_toNat_eq (Nat.le_antisymm (inv.wpV_le hs) full)⟩)
  | copied hr => exact .inr (.inr (.inl ⟨hs, Nat.lt_of_succ_le (rcV_pred_toNat hr).le, rfl⟩))
  | literal hr hp =>
    have moved : (s.rpV + 1).toNat = s.rpV.toNat + 1 := rpV_add_toNat hp
    exact .inr (.inr (.inr ⟨hs, hr, moved ▸ Nat.lt_succ_self _, moved.trans_le hp⟩))
  | loaded hr hp =>
    have moved : (s.rpV + 2).toNat = s.rpV.toNat + 2 := rpV_add_toNat hp
    exact .inr (.inr (.inr ⟨hs, hr, moved ▸ by omega, moved.trans_le hp⟩))

/-- Settles O16: `RLE.CLOSE` has one test; with `wp` at most `PIXCNT` (R25) passing it means that all is written. -/
theorem closeChecksTheFill : Obligations.CloseChecksTheFill := by
  intro s hs hr hp
  refine ⟨coreTurn_of_op (selectCore_close s hs hr hp),
    fun short => exec_rleClose_next.mpr ⟨⟨hs, hr, hp⟩, if_pos short⟩,
    fun full => ⟨_, exec_rleClose_next.mpr ⟨⟨hs, hr, hp⟩, if_neg (Nat.not_lt.mpr full)⟩, rfl, fun inv => ?_⟩⟩
  have filled : s.wpV = s.pixcntV := BitVec.eq_of_toNat_eq (Nat.le_antisymm (inv.wpV_le hs) full)
  refine ⟨filled, fun a ha => Option.isSome_iff_exists.mp ((Memory.read_isSome_iff s.pix a).mpr ?_)⟩
  rw [inv.pix_addresses hs, filled]
  exact List.mem_range.mpr ha

/-! ## `decode` by cases (R160) -/

/-- `decode` with `n` copies of `v` still to come before the bytes `rest`: the run fits or it does not (R159, R160). -/
def decodeRun (cnt n : Nat) (v : Byte) (rest out : List Byte) : Except ErrKind (List Byte) :=
  if cnt < out.length + n then .error .corruptData else decodeStream cnt rest (out ++ List.replicate n v)

section
variable {cnt : Nat} {out : List Byte}

theorem decodeRun_zero (v : Byte) (rest : List Byte) (within : out.length ≤ cnt) :
    decodeRun cnt 0 v rest out = decodeStream cnt rest out := by
  rw [decodeRun, List.replicate_zero, List.append_nil]
  exact if_neg (Nat.not_lt.mpr within)

/-- The run value does not matter when no copy is to come (R27). -/
theorem decodeRun_zero_congr (v w : Byte) (rest : List Byte) :
    decodeRun cnt 0 v rest out = decodeRun cnt 0 w rest out := rfl

/-- One copy of a run. -/
theorem decodeRun_succ (n : Nat) (v : Byte) (rest : List Byte) :
    decodeRun cnt (n + 1) v rest out = decodeRun cnt n v rest (out ++ [v]) := by
  rw [decodeRun, decodeRun, List.length_append, List.length_singleton, List.append_assoc, List.singleton_append,
    ← List.replicate_succ, Nat.add_assoc, Nat.add_comm 1 n]

theorem decodeRun_full {n : Nat} (v : Byte) (rest : List Byte) (full : cnt ≤ out.length) (hn : n ≠ 0) :
    decodeRun cnt n v rest out = .error .corruptData := if_pos (by omega)

/-- In R160 a literal is a run of one. -/
theorem decodeStream_literal {b : Byte} (rest : List Byte) (hb : b.toNat ≤ 192) :
    decodeStream cnt (b :: rest) out = decodeRun cnt 1 b rest out := by
  cases rest with
  | nil => simp only [decodeStream, if_pos hb, decodeRun, Nat.lt_succ_iff, List.replicate_one]
  | cons v rest => simp only [decodeStream, if_pos hb, decodeRun, Nat.lt_succ_iff, List.replicate_one]

theorem decodeStream_marker_eq {b : Byte} (v : Byte) (rest : List Byte) (hb : 192 < b.toNat) :
    decodeStream cnt (b :: v :: rest) out = decodeRun cnt (b.toNat - 192) v rest out := by
  rw [decodeStream, if_neg (Nat.not_le.mpr hb), decodeRun]

theorem decodeStream_dangling {b : Byte} (hb : 192 < b.toNat) :
    decodeStream cnt [b] out = .error .truncatedFile := by
  rw [decodeStream, if_neg (Nat.not_le.mpr hb)]

/-! ## The streams of `PIX` -/

/-- R114: `PIX v` stands for one pixel, whichever token it is. -/
theorem decodeStream_pixToken (v : Byte) (rest : List Byte) (free : out.length < cnt) :
    decodeStream cnt (encode (pixToken v) ++ rest) out = decodeStream cnt rest (out ++ [v]) := by
  by_cases hv : v.toNat ≤ 192
  · obtain ⟨-, -, -, bytes⟩ := literal_cases v hv
    rw [pixToken, if_pos hv, bytes, List.singleton_append, decodeStream_literal rest hv, decodeRun_succ,
      decodeRun_zero v rest (by simpa using free)]
  · rw [pixToken, if_neg hv]
    exact decodeStream_run (n := 1) v rest (by decide) free

theorem decodeStream_pixTokens (g rest : List Byte) (fits : out.length + g.length ≤ cnt) :
    decodeStream cnt (encodeAll (g.map pixToken) ++ rest) out = decodeStream cnt rest (out ++ g) := by
  induction g generalizing out with
  | nil => rw [List.append_nil]; rfl
  | cons v g ih =>
    rw [List.length_cons] at fits
    calc decodeStream cnt (encodeAll ((v :: g).map pixToken) ++ rest) out
      _ = decodeStream cnt (encode (pixToken v) ++ (encodeAll (g.map pixToken) ++ rest)) out := by
        rw [List.map_cons, encodeAll, List.flatMap_cons, List.append_assoc, encodeAll]
      _ = decodeStream cnt (encodeAll (g.map pixToken) ++ rest) (out ++ [v]) := decodeStream_pixToken v _ (by omega)
      _ = decodeStream cnt rest (out ++ [v] ++ g) := ih (by rw [List.length_append, List.length_singleton]; omega)
      _ = decodeStream cnt rest (out ++ v :: g) := by rw [List.append_assoc, List.singleton_append]

end

/-- Settles O36: a list of pixels fills its own length exactly. -/
theorem pixelStreamsDecodeToTheirPixels : Obligations.PixelStreamsDecodeToTheirPixels := by
  intro g
  calc decodeStream g.length (encodeAll (g.map pixToken)) []
    _ = decodeStream g.length (encodeAll (g.map pixToken) ++ []) [] := by rw [List.append_nil]
    _ = decodeStream g.length [] g := decodeStream_pixTokens g [] (Nat.zero_add _).le
    _ = .ok g := if_pos rfl

/-! ## A state of the stage as a point of `decode` -/

theorem rawSlice_succ (raw : Nat → Byte) (a n : Nat) : rawSlice raw a (n + 1) = raw a :: rawSlice raw (a + 1) n := by
  simp [rawSlice, List.range_succ_eq_map, Nat.add_assoc, Nat.add_comm 1]

/-- The bytes of the compressed region from offset `a` on (R11). -/
def regionFrom (s : State) (a : Nat) : List Byte := rawSlice s.rawV a (endOff s - a)

theorem regionFrom_of_lt {s : State} {a : Nat} (h : a < endOff s) :
    regionFrom s a = s.rawV a :: regionFrom s (a + 1) := by
  rw [regionFrom, regionFrom, ← rawSlice_succ, Nat.sub_add_eq, Nat.sub_add_cancel (Nat.sub_pos_of_lt h)]

theorem regionFrom_end {s : State} {a : Nat} (h : endOff s ≤ a) : regionFrom s a = [] := by
  rw [regionFrom, Nat.sub_eq_zero_of_le h]
  rfl

/-- The bytes of a memory in the order of their addresses. -/
def Memory.bytes (m : Memory) : List Byte := m.map Prod.snd

/-- A memory filled from `k` up without gaps is its list of bytes. -/
theorem Memory.read_eq_bytes_from {m : Memory} {k n : Nat} (h : m.addresses = List.range' k n) (a : Nat) :
    m.read (k + a) = m.bytes[a]? := by
  induction m generalizing k n a with
  | nil => rfl
  | cons c m ih =>
    obtain ⟨j, b⟩ := c
    cases n with
    | zero => cases h
    | succ n =>
      obtain ⟨rfl, tail⟩ := List.cons.inj h
      cases a with
      | zero => exact if_pos rfl
      | succ a =>
        have next := ih tail a
        rw [Nat.add_assoc, Nat.add_comm 1 a] at next
        exact (if_neg (by omega)).trans next

theorem Memory.read_eq_bytes {m : Memory} {n : Nat} (h : m.addresses = List.range n) (a : Nat) :
    m.read a = m.bytes[a]? := by
  rw [List.range_eq_range'] at h
  simpa using Memory.read_eq_bytes_from h a

/-- The pixel that goes to the next cell of a memory filled from 0 up comes last. -/
theorem Memory.bytes_write_next {m : Memory} {n : Nat} (b : Byte) (h : m.addresses = List.range n) :
    (m.write n b).bytes = m.bytes ++ [b] := by
  rw [Memory.write_append b (by rw [h]; simp), Memory.bytes, List.map_append]
  rfl

theorem Memory.bytes_length {m : Memory} {n : Nat} (h : m.addresses = List.range n) : m.bytes.length = n := by
  have count := congrArg List.length h
  rwa [Memory.addresses, List.length_map, List.length_range, ← List.length_map (f := Prod.snd)] at count

/-- What `decode` has still to answer from a state of the RLE stage: `rc` copies are to come, then the bytes from `rp`
on, behind the pixels already written. -/
def rleOutcome (s : State) : Except ErrKind (List Byte) :=
  decodeRun s.pixcntV.toNat s.rcV.toNat s.rvV (regionFrom s s.rpV.toNat) s.pix.bytes

/-- A bound on the steps that `n` copies and `r` bytes to come can still take (R161): the copies, the bytes, up to 63
copies for every two bytes, and `RLE.CLOSE`. -/
def stepBudget (n r : Nat) : Nat := n + r + 63 * (r / 2) + 1

theorem stepBudget_lt_of_copy (n r : Nat) : stepBudget n r < stepBudget (n + 1) r := by
  unfold stepBudget
  omega

theorem stepBudget_lt_of_literal (r : Nat) : stepBudget 0 r < stepBudget 0 (r + 1) := by
  unfold stepBudget
  omega

theorem stepBudget_lt_of_run {n : Nat} (hn : n ≤ 63) (r : Nat) : stepBudget n r < stepBudget 0 (r + 2) := by
  unfold stepBudget
  omega

/-- The bound on the steps that a state of the RLE stage can still take (R161). -/
def rleBudget (s : State) : Nat := stepBudget s.rcV.toNat (endOff s - s.rpV.toNat)

/-- State `t` shows the answer of `decode` for the image with header `h`: the PAL stage begins, at palette index 0 and
with the header registers as they were, with the decoded pixels in `PIX` (R158), or the fault is taken (R226). -/
inductive EndsRle (h : HdrView) (t : State) : Except ErrKind (List Byte) → Prop
  | pal {out : List Byte} (stage : t.stage = .pal) (index : t.piV = 0) (header : hdrOf t = h)
      (length : out.length = h.pixcnt.toNat) (pixels : ∀ a, t.pix.read a = out[a]?) : EndsRle h t (.ok out)
  | fault (stage : t.stage = .fault) : EndsRle h t (.error t.err)

/-- What a turn from `s` to `t` in the RLE stage means for `decode`: it goes on with the same answer and fewer steps to
take, or the answer is reached. -/
inductive RleAdvance (s t : State) : Prop
  | stays (stage : t.stage = .rle) (header : hdrOf t = hdrOf s) (outcome : rleOutcome t = rleOutcome s)
      (budget : rleBudget t < rleBudget s)
  | ends (answer : EndsRle (hdrOf s) t (rleOutcome s))

section
variable {s : State} (inv : s.Inv) (hs : s.stage = .rle)
include inv hs

theorem State.Inv.pix_bytes_length : s.pix.bytes.length = s.wpV.toNat := Memory.bytes_length (inv.pix_addresses hs)

theorem State.Inv.rleOutcome_of_fetch (hr : s.rcV = 0) :
    rleOutcome s = decodeStream s.pixcntV.toNat (regionFrom s s.rpV.toNat) s.pix.bytes := by
  rw [rleOutcome, hr]
  exact decodeRun_zero _ _ ((inv.pix_bytes_length hs).trans_le (inv.wpV_le hs))

theorem State.Inv.rleOutcome_of_literal (hr : s.rcV = 0) (hp : s.rpV.toNat < endOff s)
    (hb : (s.rawV s.rpV.toNat).toNat ≤ 192) :
    rleOutcome s =
      decodeRun s.pixcntV.toNat 1 (s.rawV s.rpV.toNat) (regionFrom s (s.rpV.toNat + 1)) s.pix.bytes := by
  rw [inv.rleOutcome_of_fetch hs hr, regionFrom_of_lt hp, decodeStream_literal _ hb]

/-- R159: where a pixel is still to come and the buffer is full, the answer is `CorruptData`. -/
theorem State.Inv.decodeRun_of_pixFull (full : pixFull s) {n : Nat} (hn : n ≠ 0) (v : Byte) (rest : List Byte) :
    decodeRun s.pixcntV.toNat n v rest s.pix.bytes = .error .corruptData :=
  decodeRun_full v rest (full.trans_eq (inv.pix_bytes_length hs).symm) hn

end

/-- `RUN.REP` keeps the run value as long as it matters (R27, R159). -/
theorem decodeRun_copied (s : State) (cnt : Nat) (rest out : List Byte) :
    decodeRun cnt (s.rcV - 1).toNat
        (State.rvV { emit s.rvV s with rc := some (s.rcV - 1), rv := if s.rcV = 1 then none else s.rv }) rest out =
      decodeRun cnt (s.rcV - 1).toNat s.rvV rest out := by
  by_cases last : s.rcV = 1
  · rw [last]
    exact decodeRun_zero_congr _ _ _
  · rw [if_neg last]
    rfl

/-- R160 turn by turn: each row of R154's table against the clause of `decode` that it carries out. -/
theorem RleStep.advance {s t : State} (h : RleStep s t) (inv : s.Inv) (hs : s.stage = .rle) : RleAdvance s t := by
  have filled := inv.pix_addresses hs
  cases h with
  | copied hr hw =>
    have count := rcV_pred_toNat hr
    refine .stays hs rfl ?_ ?_
    · rw [rleOutcome, rleOutcome, ← count, decodeRun_succ, ← Memory.bytes_write_next _ filled]
      exact decodeRun_copied s _ _ _
    · rw [rleBudget, rleBudget, ← count]
      exact stepBudget_lt_of_copy _ _
  | copyFull hr full =>
    have answer : rleOutcome s = .error .corruptData :=
      inv.decodeRun_of_pixFull hs full (fun zero => hr (BitVec.eq_of_toNat_eq zero)) _ _
    exact .ends (answer ▸ .fault rfl)
  | literal hr hp hb =>
    have moved : (s.rpV + 1).toNat = s.rpV.toNat + 1 := rpV_add_toNat hp
    have no_copies : s.rcV.toNat = 0 := congrArg BitVec.toNat hr
    refine .stays hs rfl ?_ ?_
    · rw [inv.rleOutcome_of_literal hs hr hp hb, decodeRun_succ, ← Memory.bytes_write_next _ filled, ← moved]
      change decodeRun _ s.rcV.toNat _ _ _ = _
      rw [no_copies]
      exact decodeRun_zero_congr _ _ _
    · have left : endOff s - s.rpV.toNat = endOff s - (s.rpV + 1).toNat + 1 := by omega
      rw [rleBudget, rleBudget, left]
      change stepBudget s.rcV.toNat _ < stepBudget s.rcV.toNat _
      rw [no_copies]
      exact stepBudget_lt_of_literal _
  | literalFull hr hp hb full =>
    have answer := (inv.rleOutcome_of_literal hs hr hp hb).trans (inv.decodeRun_of_pixFull hs full one_ne_zero _ _)
    exact .ends (answer ▸ .fault rfl)
  | loaded hr hp hb =>
    have moved : (s.rpV + 2).toNat = s.rpV.toNat + 1 + 1 := rpV_add_toNat hp
    refine .stays hs rfl ?_ ?_
    · rw [inv.rleOutcome_of_fetch hs hr, regionFrom_of_lt (Nat.lt_of_succ_lt hp), regionFrom_of_lt hp,
        decodeStream_marker_eq _ _ hb, ← runCount_toNat _ hb, ← moved]
      rfl
    · have left : endOff s - s.rpV.toNat = endOff s - (s.rpV + 2).toNat + 2 := by omega
      rw [rleBudget, rleBudget, left, hr]
      exact stepBudget_lt_of_run (Nat.le_of_lt_succ (runCount _).isLt) _
  | dangling hr hp hb =>
    have answer : rleOutcome s = .error .truncatedFile := by
      rw [inv.rleOutcome_of_fetch hs hr, regionFrom_of_lt (Nat.lt_of_succ_le hp.le), regionFrom_end hp.ge,
        decodeStream_dangling hb]
    exact .ends (answer ▸ .fault rfl)
  | closed hr hp full =>
    have length : s.pix.bytes.length = s.pixcntV.toNat :=
      (inv.pix_bytes_length hs).trans (Nat.le_antisymm (inv.wpV_le hs) full)
    have answer : rleOutcome s = .ok s.pix.bytes := by
      rw [inv.rleOutcome_of_fetch hs hr, regionFrom_end hp.ge]
      exact if_pos length
    exact .ends (answer ▸ .pal rfl rfl rfl length (Memory.read_eq_bytes filled))
  | closeShort hr hp short =>
    have answer : rleOutcome s = .error .truncatedFile := by
      rw [inv.rleOutcome_of_fetch hs hr, regionFrom_end hp.ge]
      exact if_neg (by rw [inv.pix_bytes_length hs]; exact short.ne)
    exact .ends (answer ▸ .fault rfl)

/-- R160 and R161 from any state of the stage: CORE's steps alone reach the answer within the budget, by induction on
it. -/
theorem State.Inv.rleStage {s : State} (inv : s.Inv) (hs : s.stage = .rle) (alone : s.inputs = []) :
    ∃ k t, k ≤ rleBudget s ∧ steps k s = .next t ∧ EndsRle (hdrOf s) t (rleOutcome s) := by
  induction bound : rleBudget s using Nat.strong_induction_on generalizing s with
  | _ b ih =>
  obtain ⟨u, turn⟩ := inv.exists_coreStep_of_rle hs
  have first : step s = .next u := (step_of_unscheduled alone).trans (coreTurn_of_coreStep turn)
  obtain ⟨-, -, -, inputs, -⟩ := turn.frame
  rcases (turn.rleStep hs).advance inv hs with ⟨stage, header, outcome, budget⟩ | answer
  · obtain ⟨k, t, within, run, answer⟩ :=
      ih (rleBudget u) (bound ▸ budget) (inv.effect turn.effect) stage (inputs.trans alone) rfl
    rw [header, outcome] at answer
    exact ⟨k + 1, t, by omega, (steps_succ first k).trans run, answer⟩
  · exact ⟨1, u, bound ▸ Nat.succ_pos _, steps_succ first 0, answer⟩

/-- The size of the whole region, in R161's terms. -/
theorem endOff_sub_start (s : State) : endOff s - 128 = s.lenV.toNat - 896 := by
  rw [endOff, Config.palSize_eq, Nat.sub_sub]

/-- Where the stage begins, `decode` has the whole region before it and no pixel behind it (R153). -/
theorem State.Inv.rleOutcome_of_start {s : State} (inv : s.Inv) (hs : s.stage = .rle) (hp : s.rpV = 128)
    (hw : s.wpV = 0) (hr : s.rcV = 0) :
    rleOutcome s = decodeStream s.pixcntV.toNat (rawSlice s.rawV 128 (s.lenV.toNat - 896)) [] := by
  have none_written : s.pix.bytes = [] := List.eq_nil_of_length_eq_zero (by rw [inv.pix_bytes_length hs, hw]; rfl)
  have start : s.rpV.toNat = 128 := congrArg BitVec.toNat hp
  rw [inv.rleOutcome_of_fetch hs hr, none_written, start, regionFrom, endOff_sub_start]

/-- Settles O18: the stage from its start, where the budget is R161's bound. -/
theorem rleStageComputesDecode : Obligations.RleStageComputesDecode := by
  intro s inv hs hp hw hr alone
  obtain ⟨k, t, within, run, answer⟩ := inv.rleStage hs alone
  have bound : rleBudget s = (s.lenV.toNat - 896) + 63 * ((s.lenV.toNat - 896) / 2) + 1 := by
    have start : s.rpV.toNat = 128 := congrArg BitVec.toNat hp
    have no_copies : s.rcV.toNat = 0 := congrArg BitVec.toNat hr
    rw [rleBudget, start, no_copies, endOff_sub_start, stepBudget, Nat.zero_add]
  refine ⟨k, t, bound ▸ within, run, ?_⟩
  rw [inv.rleOutcome_of_start hs hp hw hr] at answer
  generalize decodeStream s.pixcntV.toNat (rawSlice s.rawV 128 (s.lenV.toNat - 896)) [] = result at answer ⊢
  cases answer with
  | pal stage _ _ length pixels => exact ⟨stage, length, fun a _ => pixels a⟩
  | fault stage => exact ⟨stage, rfl⟩

end Sys2Proof.Machine
end

section
/-! Proofs of the family `42_palette_quantizer.md`: `PAL.Q` and `PAL.CLOSE` (R181, R182), the frame of `PAL.Q` (R184),
and the whole stage as `quantize(RAW, LEN)` (R180, R183). -/

namespace Sys2Proof.Machine

/-! ## The operations of the stage -/

theorem exec_palQ_next {v : Byte} {s t : State} :
    exec (.palQ v) s = .next t ↔ (s.stage = .pal ∧ s.piV.toNat < 768) ∧ palStep v s = t := whenEnabled_next

/-- R181: the operand of `PAL.Q` is the palette byte at `pi`, whatever its value (R110). -/
theorem selectCore_palQ (s : State) (h : s.stage = .pal) (hi : s.piV.toNat < 768) :
    selectCore s = .op (.palQ (s.rawV (paletteOff s s.piV.toNat))) := selectCore_quant s h hi

theorem selectCore_finish (s : State) (h : s.stage = .pal) (hi : s.piV.toNat = 768) :
    selectCore s = .op .palClose := by
  rw [selectCore, h]
  exact (if_neg hi.not_lt).trans (if_pos hi)

/-- Settles O20: `PAL.Q` has no test of its own, and CORE's turn selects it for the byte it fetches. -/
theorem paletteByteIsQuantised : Obligations.PaletteByteIsQuantised := fun s hs hi =>
  ⟨fun _ => exec_palQ_next.mpr ⟨⟨hs, hi⟩, rfl⟩, coreTurn_of_op (selectCore_palQ s hs hi)⟩

/-- Settles O21: `PAL.CLOSE` has no test of its own. -/
theorem paletteCloseEndsTheRun : Obligations.PaletteCloseEndsTheRun := fun s hs hi =>
  ⟨coreTurn_of_op (selectCore_finish s hs hi), _, exec_palClose_next.mpr ⟨⟨hs, hi⟩, rfl⟩, rfl⟩

/-- Settles O45: the one cell written is that at `pi`. -/
theorem paletteByteFrame : Obligations.PaletteByteFrame := by
  intro v s t h
  obtain ⟨-, rfl⟩ := exec_palQ_next.mp h
  exact ⟨rfl, Memory.read_write_same .., fun _ => Memory.read_write_other _ _, fun _ => ⟨rfl, rfl⟩⟩

/-! ## The stage -/

/-- State `t` is `s`, a state of the PAL stage, at the end of the run: the cells below `pi` are as they were, those from
`pi` on hold their quantised bytes, and nothing else changed but `STATE` and `pi` (R183). -/
structure EndsPal (s t : State) : Prop where
  frame : t = { s with stage := .done, pi := t.pi, pal := t.pal }
  before : ∀ a < s.piV.toNat, t.pal.read a = s.pal.read a
  block : ∀ a, s.piV.toNat ≤ a → a < 768 → t.pal.read a = some (quantise (s.rawV (paletteOff s a)))

/-- R182: with all 768 bytes behind it the stage has no cell left to write. -/
theorem EndsPal.finish {s : State} (hi : s.piV.toNat = 768) : EndsPal s (palCloseStep s) where
  frame := rfl
  before _ _ := rfl
  block _ from_pi below := absurd (hi.symm.trans_le from_pi) below.not_ge

/-- R181: `PAL.Q` writes the first cell of those that the stage has still to write, and the rest of the stage leaves it
alone. -/
theorem EndsPal.of_palStep {s t : State} (hi : s.piV.toNat < 768)
    (h : EndsPal (palStep (s.rawV (paletteOff s s.piV.toNat)) s) t) : EndsPal s t := by
  have moved : (s.piV + 1).toNat = s.piV.toNat + 1 := piV_succ_toNat hi
  have kept (a : Nat) (ha : a ≤ s.piV.toNat) := h.before a ((Nat.lt_succ_of_le ha).trans_eq moved.symm)
  refine ⟨h.frame, fun a ha => ?_, fun a from_pi below => ?_⟩
  · exact (kept a ha.le).trans (Memory.read_write_other _ _ ha.ne)
  · rcases from_pi.eq_or_lt with rfl | later
    · exact (kept _ le_rfl).trans (Memory.read_write_same ..)
    · exact h.block a (moved.trans_le later) below

/-- R183 from any state of the stage: with `n` bytes to come, `n` times `PAL.Q` and then `PAL.CLOSE`, by induction on
`n`. -/
theorem palStage {s : State} {n : Nat} (hs : s.stage = .pal) (alone : s.inputs = []) (left : s.piV.toNat + n = 768) :
    ∃ t, steps (n + 1) s = .next t ∧ EndsPal s t := by
  induction n generalizing s with
  | zero =>
    have last : step s = .next (palCloseStep s) := (step_of_unscheduled alone).trans (coreTurn_finish s hs left)
    exact ⟨_, steps_succ last 0, .finish left⟩
  | succ n ih =>
    have hi : s.piV.toNat < 768 := by omega
    have first := (step_of_unscheduled alone).trans (coreTurn_quant s hs hi)
    have moved : (s.piV + 1).toNat = s.piV.toNat + 1 := piV_succ_toNat hi
    obtain ⟨t, run, ends⟩ :=
      ih (s := palStep (s.rawV (paletteOff s s.piV.toNat)) s) hs alone ((congrArg (· + n) moved).trans (by omega))
    exact ⟨t, (steps_succ first (n + 1)).trans run, .of_palStep hi ends⟩

/-! ## `quantize` (R183) -/

theorem rawSlice_map_quantise_getElem? (raw : Nat → Byte) (a : Nat) {n i : Nat} (h : i < n) :
    ((rawSlice raw a n).map quantise)[i]? = some (quantise (raw (a + i))) := by
  rw [List.getElem?_map, rawSlice_getElem? raw a h, Option.map_some]

/-- Past the tests of `RLE.OPEN` the file holds the palette block (R151). -/
theorem State.Inv.palSize_le_lenV {s : State} (inv : s.Inv) (hs : s.stage = .pal) : 768 ≤ s.lenV.toNat := by
  obtain ⟨long, -⟩ := inv.ranges.pixels (congrArg Stage.hasPixels hs)
  exact le_trans (by decide) long

/-- Settles O22: the stage from its start, where all 768 bytes are still to come. -/
theorem paletteStageComputesQuantize : Obligations.PaletteStageComputesQuantize := by
  refine ⟨fun raw _ => quantizeAll_short raw, fun raw len long => ?_, fun s inv hs start alone => ?_⟩
  · exact ⟨_, quantizeAll_ok raw long, by rw [List.length_map, rawSlice_length],
      fun _ => rawSlice_map_quantise_getElem? raw _⟩
  · have at_zero : s.piV.toNat = 0 := congrArg BitVec.toNat start
    obtain ⟨t, run, ends⟩ := palStage (n := 768) hs alone (by rw [at_zero])
    refine ⟨769, t, _, rfl, run, ends.frame, quantizeAll_ok s.rawV (inv.palSize_le_lenV hs), fun a ha => ?_⟩
    rw [rawSlice_map_quantise_getElem? s.rawV _ ha]
    exact ends.block a (at_zero.trans_le a.zero_le) ha

end Sys2Proof.Machine
end

section
/-! Proofs of the family `43_sequencer_and_commands.md`: HOST's moves (R190 to R196), the transition graph (R197), the
outputs in `DONE` (R198), and the whole run as `run(RAW, LEN)` (R201). -/

namespace Sys2Proof.Machine

/-! ## HOST's moves, in place and out of place -/

section
variable {s : State}

theorem exec_start_of_idle (hs : s.stage = .idle) : exec .start s = .next (startStep Config.params s) :=
  congrArg _ (if_pos hs)

theorem exec_start_of_ne (hs : s.stage ≠ .idle) : exec .start s = .next s := congrArg _ (if_neg hs)

theorem exec_clear_of_ended (hs : s.stage = .done ∨ s.stage = .fault) : exec .clear s = .next (release s) :=
  congrArg _ (if_pos hs)

theorem exec_clear_of_not_ended (hs : ¬ (s.stage = .done ∨ s.stage = .fault)) : exec .clear s = .next s :=
  congrArg _ (if_neg hs)

theorem exec_writeLen_of_idle (hs : s.stage = .idle) (n : BitVec 32) :
    exec (.writeLen n) s = .next { s with len := some n } := congrArg _ (if_pos hs)

theorem exec_writeLen_of_ne (hs : s.stage ≠ .idle) (n : BitVec 32) : exec (.writeLen n) s = .next s :=
  congrArg _ (if_neg hs)

theorem exec_writeRaw_of_idle (hs : s.stage = .idle) {a : Nat} (ha : a < Config.params.rawCap) (b : Byte) :
    exec (.writeRaw a b) s = .next { s with raw := s.raw.write a b } := congrArg _ (if_pos ⟨hs, ha⟩)

theorem exec_writeRaw_of_not {a : Nat} (h : ¬ (s.stage = .idle ∧ a < Config.params.rawCap)) (b : Byte) :
    exec (.writeRaw a b) s = .next s := congrArg _ (if_neg h)

theorem exec_readHdr_of_done (hs : s.stage = .done) : exec .readHdr s = .next (respond (.hdr (hdrOf s)) s) :=
  congrArg _ (if_pos hs)

theorem exec_readPix_of_done (hs : s.stage = .done) {a : Nat} (ha : a < s.pixcntV.toNat) :
    exec (.readPix a) s = .next (respond (.pix (s.pixV a)) s) := congrArg _ (if_pos ⟨hs, ha⟩)

theorem exec_readPal_of_done (hs : s.stage = .done) {a : Nat} (ha : a < 768) :
    exec (.readPal a) s = .next (respond (.pal (s.palV a)) s) := congrArg _ (if_pos ⟨hs, ha⟩)

theorem exec_readHdr_of_ne (hs : s.stage ≠ .done) :
    exec .readHdr s = .next (respondFree (.hdr (hdrFree s.draws)) s) := congrArg _ (if_neg hs)

theorem exec_readPix_of_not {a : Nat} (h : ¬ (s.stage = .done ∧ a < s.pixcntV.toNat)) :
    exec (.readPix a) s = .next (respondFree (.pix (Config.hostRead 8 (.pix a) s.draws)) s) := congrArg _ (if_neg h)

theorem exec_readPal_of_not {a : Nat} (h : ¬ (s.stage = .done ∧ a < 768)) :
    exec (.readPal a) s = .next (respondFree (.pal (Config.hostRead 8 (.pal a) s.draws)) s) := congrArg _ (if_neg h)

/-- R196: an unspecified read changes no element of CORE. -/
theorem respondFree_sameCore (r : Response) (s : State) : s.SameCore (respondFree r s) := by constructor <;> rfl

end

/-- Settles O23: `START` has one test. -/
theorem startBeginsARunOrFaults : Obligations.StartBeginsARunOrFaults := fun _ hs =>
  ⟨fun long => (exec_start_of_idle hs).trans (congrArg _ (if_pos long)),
    fun fits => (exec_start_of_idle hs).trans (congrArg _ (if_neg (Nat.not_lt.mpr fits)))⟩

/-- Settles O24: what `release` leaves is the reset state but for the model's own fields. -/
theorem clearReleasesEverything : Obligations.ClearReleasesEverything := fun _ hs => exec_clear_of_ended hs

/-- Settles O25: the writes are in place, and `RAW` obeys the laws of a memory. -/
theorem writesLoadTheInput : Obligations.WritesLoadTheInput := fun _ hs =>
  ⟨exec_writeLen_of_idle hs, fun _ b ha =>
    ⟨exec_writeRaw_of_idle hs ha b, Memory.read_write_same .., fun _ => Memory.read_write_other _ _⟩⟩

/-- Settles O26: `READ_STATUS` has no test, and the others are in place. -/
theorem readMovesReturnAndChangeNothing : Obligations.ReadMovesReturnAndChangeNothing := fun _ =>
  ⟨rfl, fun hs => ⟨exec_readHdr_of_done hs, fun _ => exec_readPix_of_done hs, fun _ => exec_readPal_of_done hs⟩⟩

theorem Stage.not_ended_of_idle_or_busy {g : Stage} (h : g = .idle ∨ g.busy = true) :
    ¬ (g = .done ∨ g = .fault) := by
  rintro (rfl | rfl) <;> exact absurd h (by decide)

/-- Settles O27: writes and commands out of place are ignored, and reads out of place touch the model's own fields
only. -/
theorem movesOutOfPlaceChangeNothing : Obligations.MovesOutOfPlaceChangeNothing := by
  intro s
  refine ⟨fun hs => ⟨exec_start_of_ne hs, exec_writeLen_of_ne hs, fun _ => exec_writeRaw_of_not fun h => hs h.1⟩,
    fun hs => exec_clear_of_not_ended (Stage.not_ended_of_idle_or_busy hs),
    fun a b beyond => exec_writeRaw_of_not (fun h => beyond.not_gt h.2) b,
    fun hs => ⟨_, exec_readHdr_of_ne hs, respondFree_sameCore ..⟩,
    fun a out => ⟨_, exec_readPix_of_not ?_, respondFree_sameCore ..⟩,
    fun a out => ⟨_, exec_readPal_of_not ?_, respondFree_sameCore ..⟩⟩
  · exact not_and_or.mpr (out.imp_right Nat.not_lt.mpr)
  · exact not_and_or.mpr (out.imp_right Nat.not_lt.mpr)

/-! ## The frame of HOST's moves -/

/-- The moves that read (R194) and the Encoder's packing functions (R210). -/
abbrev IsReadMove (i : Instr) : Prop :=
  i = .readStatus ∨ i = .readHdr ∨ (∃ a, i = .readPix a) ∨ (∃ a, i = .readPal a) ∨
    (∃ j, i = .packPix j) ∨ ∃ k, i = .packPal k

section
variable {s t : State}

theorem exec_writeLen_frame {n : BitVec 32} (h : exec (.writeLen n) s = .next t) : t = { s with len := t.len } := by
  by_cases hs : s.stage = .idle
  · rw [exec_writeLen_of_idle hs] at h
    cases h
    rfl
  · rw [exec_writeLen_of_ne hs] at h
    cases h
    rfl

theorem exec_writeRaw_frame {a : Nat} {b : Byte} (h : exec (.writeRaw a b) s = .next t) :
    t = { s with raw := t.raw } ∧ ∀ x, x ≠ a → t.raw.read x = s.raw.read x := by
  by_cases legal : s.stage = .idle ∧ a < Config.params.rawCap
  · obtain ⟨hs, ha⟩ := legal
    rw [exec_writeRaw_of_idle hs ha] at h
    cases h
    exact ⟨rfl, fun _ => Memory.read_write_other _ _⟩
  · rw [exec_writeRaw_of_not legal] at h
    cases h
    exact ⟨rfl, fun _ _ => rfl⟩

theorem exec_start_frame (ok : t.stage ≠ .fault) (h : exec .start s = .next t) : t = { s with stage := t.stage } := by
  by_cases hs : s.stage = .idle
  · rw [exec_start_of_idle hs] at h
    cases h
    rcases startStep_cases Config.params s with ⟨_, e⟩ | ⟨_, e⟩
    · exact absurd (congrArg State.stage e) ok
    · rw [e]
  · rw [exec_start_of_ne hs] at h
    cases h
    rfl

/-- A read answers HOST with a value of the state or with a free one, and either way writes the model's own fields
only. -/
theorem respond_or_free_frame {c : Prop} [Decidable c] {q r : Response}
    (h : (.next (if c then respond q s else respondFree r s) : Result) = .next t) :
    t = { s with port := t.port, draws := t.draws } := by
  cases h
  split_ifs <;> rfl

theorem exec_readMove_frame {i : Instr} (hi : IsReadMove i) (h : exec i s = .next t) :
    t = { s with port := t.port, draws := t.draws } := by
  rcases hi with rfl | rfl | ⟨a, rfl⟩ | ⟨a, rfl⟩ | ⟨j, rfl⟩ | ⟨k, rfl⟩
  · cases h
    rfl
  all_goals exact respond_or_free_frame h

end

/-- Settles O46: the frame of each move, and with it that of the memories' cells. -/
theorem hostMovesFrame : Obligations.HostMovesFrame := by
  refine fun s t => ⟨fun n h => ?_, fun a b h => ?_, exec_start_frame, fun i hi h => ?_⟩
  · have frame := exec_writeLen_frame h
    exact ⟨frame, fun a => by rw [frame]; exact ⟨rfl, rfl, rfl⟩⟩
  · obtain ⟨frame, cells⟩ := exec_writeRaw_frame h
    exact ⟨frame, cells, fun x => by rw [frame]; exact ⟨rfl, rfl⟩⟩
  · have frame := exec_readMove_frame hi h
    exact ⟨frame, fun a => by rw [frame]; exact ⟨rfl, rfl, rfl⟩⟩

/-! ## The transition graph -/

section
variable {s t : State}

/-- CORE has one turn in a state (R154, R197). -/
theorem CoreStep.unique {u : State} (ht : CoreStep s t) (hu : CoreStep s u) : t = u :=
  Host.Outcome.next.inj ((coreTurn_of_coreStep ht).symm.trans (coreTurn_of_coreStep hu))

theorem CoreStep.hdr_stage (h : CoreStep s t) (hs : s.stage = .hdr) :
    t.stage = .opening ∨ t.stage = .fault ∧ (t.err = .truncatedFile ∨ t.err = .unsupportedFormat) := by
  obtain rfl := h.unique (.hdr hs)
  rcases hdrStep_cases Config.params s hs with ⟨_, e⟩ | ⟨_, _, e⟩ | ⟨_, _, e⟩
  · exact e ▸ .inr ⟨rfl, .inl rfl⟩
  · exact e ▸ .inr ⟨rfl, .inr rfl⟩
  · exact e ▸ .inl rfl

theorem CoreStep.opening_stage (h : CoreStep s t) (hs : s.stage = .opening) :
    t.stage = .rle ∨ t.stage = .fault ∧ (t.err = .truncatedFile ∨ t.err = .allocationFailure) := by
  obtain rfl := h.unique (.opening hs)
  rcases openStep_cases Config.params s with ⟨_, e⟩ | ⟨_, _, e⟩ | ⟨_, _, _, _, e⟩
  · exact e ▸ .inr ⟨rfl, .inl rfl⟩
  · exact e ▸ .inr ⟨rfl, .inr rfl⟩
  · exact e ▸ .inl rfl

theorem CoreStep.rle_stage (h : CoreStep s t) (hs : s.stage = .rle) :
    t.stage = .rle ∨ t.stage = .pal ∨ t.stage = .fault ∧ (t.err = .corruptData ∨ t.err = .truncatedFile) := by
  cases h.rleStep hs with
  | copied | literal | loaded => exact .inl hs
  | closed => exact .inr (.inl rfl)
  | copyFull | literalFull => exact .inr (.inr ⟨rfl, .inl rfl⟩)
  | dangling | closeShort => exact .inr (.inr ⟨rfl, .inr rfl⟩)

theorem CoreStep.pal_stage (h : CoreStep s t) (hs : s.stage = .pal) : t.stage = .pal ∨ t.stage = .done := by
  cases h with
  | rest h' =>
    rw [hs] at h'
    cases h'
  | quant => exact .inl hs
  | finish => exact .inr rfl
  | hdr h' | opening h' | copy h' | lit h' | run h' | dangling h' | close h' => cases hs.symm.trans h'

end

/-- Settles O40: the arrows of each stage, and rest outside BUSY. -/
theorem coreFollowsTheTransitionGraph : Obligations.CoreFollowsTheTransitionGraph := by
  intro s t ht
  have hc := coreTurn_next_iff.mp ht
  exact ⟨hc.hdr_stage, hc.opening_stage, hc.rle_stage, hc.pal_stage,
    fun resting => hc.unique (.rest resting)⟩

/-- Settles O41: of the cases of a move, only `START` and `CLEAR` in place write `STATE`. -/
theorem hostFollowsTheTransitionGraph : Obligations.HostFollowsTheTransitionGraph := by
  intro s t m h moved
  cases hostStep_of_exec h with
  | start hs =>
    refine .inl ⟨rfl, hs, ?_⟩
    rcases startStep_cases Config.params s with ⟨_, e⟩ | ⟨_, e⟩
    · exact e ▸ .inr ⟨rfl, rfl⟩
    · exact e ▸ .inl rfl
  | clear hs => exact .inr ⟨rfl, hs, rfl⟩
  | writeLen | writeRaw | ignored | answered | answeredFree => exact absurd rfl moved

/-! ## Progress -/

/-- R197: CORE's turn always has a case; in RLE by R24's bound, in PAL by R28's. -/
theorem State.Inv.exists_coreStep {s : State} (inv : s.Inv) : ∃ t, CoreStep s t := by
  cases hs : s.stage with
  | idle | done | fault => exact ⟨s, .rest (by rw [hs]; rfl)⟩
  | hdr => exact ⟨_, .hdr hs⟩
  | opening => exact ⟨_, .opening hs⟩
  | rle => exact inv.exists_coreStep_of_rle hs
  | pal =>
    rcases (inv.ranges.index hs).lt_or_eq with more | last
    · exact ⟨_, .quant hs more⟩
    · exact ⟨_, .finish hs last⟩

/-- The invariant says nothing of HOST's schedule. -/
theorem State.Inv.withInputs {s : State} (inv : s.Inv) (es : List Event) : State.Inv { s with inputs := es } :=
  inv.effect (.hostSide es s.port s.draws)

/-- Settles O42: CORE's turn has a case, a move of HOST always answers (R196), and so does reset. -/
theorem stepNeverStops : Obligations.StepNeverStops := by
  intro s inv
  cases scheduled : s.inputs with
  | nil =>
    obtain ⟨t, turn⟩ := inv.exists_coreStep
    exact ⟨t, (step_of_unscheduled scheduled).trans (coreTurn_of_coreStep turn)⟩
  | cons e es =>
    rw [step_of_scheduled scheduled]
    cases e with
    | core =>
      obtain ⟨t, turn⟩ := (inv.withInputs es).exists_coreStep
      exact ⟨t, coreTurn_of_coreStep turn⟩
    | host m =>
      obtain ⟨t, answered, -⟩ := host_step m { s with inputs := es }
      exact ⟨t, answered⟩
    | reset => exact ⟨_, rfl⟩

/-! ## The file fits -/

theorem State.Fits.effect {s t : State} (h : s.Fits) (he : Effect s t) : t.Fits := by
  cases he with
  | hostSide | writeRaw | literal | run | copy | quant => exact h
  | fault | release => nofun
  | start _ fits => exact fun _ => fits
  | writeLen hs => exact fun running => absurd running (by rw [hs]; decide)
  | header hs | opened hs | closed hs | finish hs => exact fun _ => h (.inl (by rw [hs]; rfl))

/-- Settles O52: `START` tests the length, and `WRITE_LEN` changes it in `IDLE` only. -/
theorem stepKeepsTheFileFitting : Obligations.StepKeepsTheFileFitting := fun _ _ => step_keeps State.Fits.effect

/-! ## The outputs in `DONE` -/

/-- A held register is what reading it gives. -/
theorem eq_some_getD_of_isSome {α : Type} {o : Option α} (held : o.isSome = true) (d : α) : o = some (o.getD d) :=
  (Option.getD_of_ne_none (Option.isSome_iff_ne_none.mp held) d).symm

/-- R38: the pixels of the image lie in `PIX` below `WIDTH * HEIGHT`. -/
theorem pixelIndex_lt {s : State} {x y : Nat} (hx : (x : Int) < s.widthV.toInt) (hy : (y : Int) < s.heightV.toInt) :
    (pixelIndex s x y : Int) < pixelProduct s := by
  have width : (s.widthV.toInt.toNat : Int) = s.widthV.toInt := Int.toNat_of_nonneg (by omega)
  have row : ((y : Int) + 1) * s.widthV.toInt ≤ s.heightV.toInt * s.widthV.toInt :=
    Int.mul_le_mul_of_nonneg_right hy (by omega)
  calc (pixelIndex s x y : Int)
    _ = y * s.widthV.toInt + x := by rw [pixelIndex, Nat.cast_add, Nat.cast_mul, width]
    _ < ((y : Int) + 1) * s.widthV.toInt := by rw [add_one_mul]; omega
    _ ≤ s.heightV.toInt * s.widthV.toInt := row
    _ = pixelProduct s := Int.mul_comm ..

section
variable {s : State} (inv : s.Inv) (hs : s.stage = .done)
include inv hs

theorem State.Inv.err_none_of_done : s.err = .none := inv.err.mpr (by rw [hs]; decide)

/-- R20: in DONE the registers that `READ_HDR` returns hold values. -/
theorem State.Inv.header_of_done :
    s.bpp = some (hdrOf s).bpp ∧ s.xmax = some (hdrOf s).xmax ∧ s.ymax = some (hdrOf s).ymax ∧
      s.width = some (hdrOf s).width ∧ s.height = some (hdrOf s).height ∧ s.pixcnt = some (hdrOf s).pixcnt := by
  have header := congrArg Stage.hasHeader hs
  have pixels := congrArg Stage.hasPixels hs
  exact ⟨eq_some_getD_of_isSome (inv.presence.bpp.trans header) _,
    eq_some_getD_of_isSome (inv.presence.xmax.trans header) _,
    eq_some_getD_of_isSome (inv.presence.ymax.trans header) _,
    eq_some_getD_of_isSome (inv.presence.width.trans header) _,
    eq_some_getD_of_isSome (inv.presence.height.trans header) _,
    eq_some_getD_of_isSome (inv.presence.pixcnt.trans pixels) _⟩

/-- R20, R158: in DONE every cell of `PIX` below `PIXCNT` holds a value. -/
theorem State.Inv.pix_read_of_done {a : Nat} (ha : a < s.pixcntV.toNat) : s.pix.read a = some (s.pixV a) := by
  have filled : s.pix.addresses = List.range s.wpV.toNat := by
    have table := inv.presence.pix
    rwa [hs] at table
  refine eq_some_getD_of_isSome ((Memory.read_isSome_iff s.pix a).mpr ?_) _
  rw [filled, inv.ranges.filled (.inr hs)]
  exact List.mem_range.mpr ha

/-- R20: in DONE every cell of `PAL` holds a value. -/
theorem State.Inv.pal_read_of_done {a : Nat} (ha : a < 768) : s.pal.read a = some (s.palV a) := by
  have filled : s.pal.addresses = List.range 768 := by
    have table := inv.presence.pal
    rwa [State.palCount, hs] at table
  refine eq_some_getD_of_isSome ((Memory.read_isSome_iff s.pal a).mpr ?_) _
  rw [filled]
  exact List.mem_range.mpr ha

/-- R39: in DONE every colour channel is a 5-bit value. -/
theorem State.Inv.palV_le_of_done {a : Nat} (ha : a < 768) : (s.palV a).toNat ≤ 31 :=
  inv.ranges.channels (a, s.palV a) (Memory.mem_of_read (inv.pal_read_of_done hs ha))

end

/-- Settles O57: the validity table and the ranges of DONE, and the reads in place. -/
theorem doneHoldsTheWholeImage : Obligations.DoneHoldsTheWholeImage := by
  intro s inv hs
  obtain ⟨bpp, -⟩ := inv.header_of_done hs
  obtain ⟨-, depth, width, height⟩ := inv.ranges.header (congrArg Stage.hasHeader hs)
  obtain ⟨-, wide, high, count, -⟩ := inv.ranges.pixels (congrArg Stage.hasPixels hs)
  refine ⟨inv.err_none_of_done hs, bpp.trans (congrArg some depth), wide, high,
    (congrArg BitVec.toInt width).trans (succExact_toInt _), (congrArg BitVec.toInt height).trans (succExact_toInt _),
    count, fun x y hx hy => ?_, fun a ha => ?_⟩
  · have inside : pixelIndex s x y < s.pixcntV.toNat := Int.ofNat_lt.mp ((pixelIndex_lt hx hy).trans_eq count.symm)
    exact ⟨_, inv.pix_read_of_done hs inside, exec_readPix_of_done hs inside⟩
  · exact ⟨_, inv.pal_read_of_done hs ha, inv.palV_le_of_done hs ha, exec_readPal_of_done hs ha⟩

/-! ## Several steps -/

/-- What every step keeps, every number of steps keeps. -/
theorem steps_keep {P : State → Prop} (keeps : ∀ {s t}, P s → step s = .next t → P t) {k : Nat} {s t : State}
    (h : P s) (run : steps k s = .next t) : P t := by
  induction k generalizing s with
  | zero =>
    cases run
    exact h
  | succ k ih =>
    rw [steps] at run
    cases first : step s with
    | next u =>
      rw [first] at run
      exact ih (keeps h first) run
    | fault r | refused r =>
      rw [first] at run
      cases run

theorem State.Inv.steps {s t : State} (inv : s.Inv) {k : Nat} (run : steps k s = .next t) : t.Inv :=
  steps_keep (stepKeepsTheInvariant _ _) inv run

/-- State `t` has the input of `s`, in the same epoch, and HOST has no move to come. -/
structure SameInput (s t : State) : Prop where
  len : t.len = s.len
  raw : t.raw = s.raw
  epoch : t.epoch = s.epoch
  alone : t.inputs = []

theorem SameInput.lenV_eq {s t : State} (h : SameInput s t) : t.lenV = s.lenV := by
  rw [State.lenV, State.lenV, h.len, h.epoch]

theorem SameInput.rawV_eq {s t : State} (h : SameInput s t) : t.rawV = s.rawV := by
  funext a
  rw [State.rawV, State.rawV, h.raw, h.epoch]

/-- R77: CORE by itself leaves its input alone. -/
theorem SameInput.of_steps {s t : State} (alone : s.inputs = []) {k : Nat} (run : steps k s = .next t) :
    SameInput s t := by
  refine steps_keep (P := SameInput s) (fun {u v} same first => ?_) ⟨rfl, rfl, rfl, alone⟩ run
  rw [step_of_unscheduled same.alone] at first
  obtain ⟨len, raw, epoch, inputs, -⟩ := (coreTurn_next_iff.mp first).frame
  exact ⟨len.trans same.len, raw.trans same.raw, epoch.trans same.epoch, inputs.trans same.alone⟩

/-! ## `run` by cases (R201) -/

/-- The header registers that `run` gives. -/
def runHeader (p : Config.Params) (raw : Nat → Byte) : HdrView where
  bpp := raw 3
  xmax := rawLe16 raw p.offXmax
  ymax := rawLe16 raw p.offYmax
  width := succExact (rawLe16 raw p.offXmax)
  height := succExact (rawLe16 raw p.offYmax)
  pixcnt := BitVec.ofInt 31 ((succExact (rawLe16 raw p.offXmax)).toInt * (succExact (rawLe16 raw p.offYmax)).toInt)

/-- The result of a run whose header is accepted, by what `decode` answers. -/
def imageResult (h : HdrView) (raw : Nat → Byte) (len : Nat) : Except ErrKind (List Byte) → RunResult
  | .error k => .fault k
  | .ok out => .done h out ((rawSlice raw (len - 768) 768).map quantise)

section
variable {p : Config.Params} {raw : Nat → Byte} {len : Nat}

theorem runResult_too_long (long : p.rawCap < len) : runResult p raw len = .fault .allocationFailure := if_pos long

variable (fits : len ≤ p.rawCap)
include fits

theorem runResult_no_header (short : len < 128) : runResult p raw len = .fault .truncatedFile :=
  (if_neg fits.not_gt).trans (if_pos short)

theorem runResult_bad_depth (long : 128 ≤ len) (depth : raw 3 ≠ 8) :
    runResult p raw len = .fault .unsupportedFormat :=
  (if_neg fits.not_gt).trans ((if_neg long.not_gt).trans (if_pos depth))

theorem runResult_no_palette (long : 128 ≤ len) (depth : raw 3 = 8) (short : len < 896) :
    runResult p raw len = .fault .truncatedFile :=
  (if_neg fits.not_gt).trans ((if_neg long.not_gt).trans ((if_neg (not_not.mpr depth)).trans (if_pos short)))

theorem runResult_bad_size (depth : raw 3 = 8) (long : 896 ≤ len)
    (size : (runHeader p raw).width.toInt < 1 ∨ (runHeader p raw).height.toInt < 1 ∨
      (p.pixCap : Int) < (runHeader p raw).width.toInt * (runHeader p raw).height.toInt) :
    runResult p raw len = .fault .allocationFailure :=
  (if_neg fits.not_gt).trans ((if_neg (le_trans (by decide) long).not_gt).trans
    ((if_neg (not_not.mpr depth)).trans ((if_neg long.not_gt).trans (if_pos size))))

theorem runResult_decoded (depth : raw 3 = 8) (long : 896 ≤ len)
    (wide : 1 ≤ (runHeader p raw).width.toInt) (high : 1 ≤ (runHeader p raw).height.toInt)
    (within : (runHeader p raw).width.toInt * (runHeader p raw).height.toInt ≤ p.pixCap) :
    runResult p raw len =
      imageResult (runHeader p raw) raw len
        (decodeStream ((runHeader p raw).width.toInt * (runHeader p raw).height.toInt).toNat
          (rawSlice raw 128 (len - 896)) []) := by
  refine (if_neg fits.not_gt).trans ((if_neg (le_trans (by decide) long).not_gt).trans
    ((if_neg (not_not.mpr depth)).trans ((if_neg long.not_gt).trans ((if_neg (by
      rintro (narrow | low | big)
      · exact narrow.not_ge wide
      · exact low.not_ge high
      · exact big.not_ge within)).trans ?_))))
  rw [quantizeAll_ok raw (le_trans (by decide) long)]
  split
  next k failed => exact congrArg (imageResult (runHeader p raw) raw len) failed.symm
  next out decoded => exact congrArg (imageResult (runHeader p raw) raw len) decoded.symm

end

/-! ## The whole run -/

/-- Within `n` steps from `s` the machine shows the result `r` (R198). -/
def State.Reaches (s : State) (n : Nat) (r : RunResult) : Prop :=
  ∃ k t, k ≤ n ∧ steps k s = .next t ∧ t.Shows r

section
variable {s u : State} {n : Nat} {r : RunResult}

theorem State.Reaches.of_steps {j m : Nat} (run : steps j s = .next u) (within : j ≤ m) (h : u.Reaches n r) :
    s.Reaches (m + n) r := by
  obtain ⟨k, t, bound, rest, shows_result⟩ := h
  exact ⟨j + k, t, Nat.add_le_add within bound, (steps_add run k).trans rest, shows_result⟩

theorem State.Reaches.of_step (first : step s = .next u) (h : u.Reaches n r) : s.Reaches (1 + n) r :=
  .of_steps (steps_succ first 0) le_rfl h

theorem State.Reaches.of_raise {k : ErrKind} : (raise k s).Reaches n (.fault k) := ⟨0, _, n.zero_le, rfl, rfl, rfl⟩

end

section
variable {s : State} (inv : s.Inv)
include inv

/-- R198: what a state in DONE shows, the pixels and the palette given as lists. -/
theorem State.Inv.shows_of_done (hs : s.stage = .done) {pix pal : List Byte} (count : pix.length = s.pixcntV.toNat)
    (pixels : ∀ a, s.pix.read a = pix[a]?) (size : pal.length = 768) (palette : ∀ a < 768, s.pal.read a = pal[a]?) :
    s.Shows (.done (hdrOf s) pix pal) := by
  obtain ⟨bpp, xmax, ymax, width, height, pixcnt⟩ := inv.header_of_done hs
  exact ⟨hs, inv.err_none_of_done hs, bpp, xmax, ymax, width, height, pixcnt, count,
    fun a _ => pixels a, size, palette⟩

/-- R183, R198: the PAL stage from its start, to DONE. -/
theorem State.Inv.reaches_of_pal (hs : s.stage = .pal) (alone : s.inputs = []) (start : s.piV = 0) {out : List Byte}
    (count : out.length = s.pixcntV.toNat) (pixels : ∀ a, s.pix.read a = out[a]?) :
    s.Reaches 769 (imageResult (hdrOf s) s.rawV s.lenV.toNat (.ok out)) := by
  have at_zero : s.piV.toNat = 0 := congrArg BitVec.toNat start
  obtain ⟨t, run, ⟨frame, -, block⟩⟩ := palStage (n := 768) hs alone (by rw [at_zero])
  have done : t.stage = .done := by rw [frame]
  have header : hdrOf t = hdrOf s := by rw [frame]; rfl
  have pix : t.pix = s.pix := by rw [frame]
  refine ⟨769, t, le_rfl, run, ?_⟩
  rw [imageResult, ← header]
  refine (inv.steps run).shows_of_done done (count.trans (congrArg (·.pixcnt.toNat) header).symm) (pix ▸ pixels)
    (by rw [List.length_map, rawSlice_length]) fun a ha => ?_
  rw [rawSlice_map_quantise_getElem? s.rawV _ ha]
  exact block a (at_zero.trans_le a.zero_le) ha

/-- R160, R201: from any state of the RLE stage the run ends as `decode` answers. -/
theorem State.Inv.reaches_of_rle (hs : s.stage = .rle) (alone : s.inputs = []) :
    s.Reaches (rleBudget s + 769) (imageResult (hdrOf s) s.rawV s.lenV.toNat (rleOutcome s)) := by
  obtain ⟨k, t, within, run, answer⟩ := inv.rleStage hs alone
  have same := SameInput.of_steps alone run
  refine .of_steps run within ?_
  generalize rleOutcome s = result at answer ⊢
  cases answer with
  | @pal out stage index header count pixels =>
    rw [← header] at count ⊢
    rw [← same.rawV_eq, ← same.lenV_eq]
    exact (inv.steps run).reaches_of_pal stage same.alone index count pixels
  | fault stage => exact ⟨0, t, Nat.zero_le _, rfl, stage, rfl⟩

/-- R153, R201: the run from the start of the RLE stage, within R161's bound for the whole region. -/
theorem State.Inv.reaches_of_rle_start (hs : s.stage = .rle) (alone : s.inputs = []) (hp : s.rpV = 128)
    (hw : s.wpV = 0) (hr : s.rcV = 0) :
    s.Reaches (stepBudget 0 (s.lenV.toNat - 896) + 769)
      (imageResult (hdrOf s) s.rawV s.lenV.toNat
        (decodeStream s.pixcntV.toNat (rawSlice s.rawV 128 (s.lenV.toNat - 896)) [])) := by
  have budget : rleBudget s = stepBudget 0 (s.lenV.toNat - 896) := by
    rw [rleBudget, hp, hr, ← endOff_sub_start]
    rfl
  rw [← budget, ← inv.rleOutcome_of_start hs hp hw hr]
  exact inv.reaches_of_rle hs alone

variable (hs : s.stage = .hdr) (alone : s.inputs = []) (fits : s.lenV.toNat ≤ Config.params.rawCap)
include hs alone fits

/-- R150, R201: the run once the header is latched, by the tests of `RLE.OPEN`. -/
theorem State.Inv.reaches_of_latched (long : 128 ≤ s.lenV.toNat) (depth : s.rawV 3 = 8) :
    (headerLatched Config.params s).Reaches (1 + (stepBudget 0 (s.lenV.toNat - 896) + 769))
      (runResult Config.params s.rawV s.lenV.toNat) := by
  have latched := Effect.header hs long depth
  have turn : step (headerLatched Config.params s) = .next (openStep Config.params (headerLatched Config.params s)) :=
    (step_of_unscheduled (s := headerLatched Config.params s) alone).trans (coreTurn_opening _ rfl)
  refine .of_step turn ?_
  rcases openStep_cases Config.params (headerLatched Config.params s) with
    ⟨short, e⟩ | ⟨whole, size, e⟩ | ⟨whole, wide, high, within, e⟩
  · rw [e, runResult_no_palette fits long depth short]
    exact .of_raise
  · rw [e, runResult_bad_size fits depth whole size]
    exact .of_raise
  · have inv_opened := (inv.effect latched).effect (.opened rfl whole wide high within)
    have count : (BitVec.ofInt 31 (pixelProduct (headerLatched Config.params s))).toNat =
        (pixelProduct (headerLatched Config.params s)).toNat := by
      have exact_count := opened_pixcnt wide high within
      omega
    have reached := inv_opened.reaches_of_rle_start rfl alone rfl rfl rfl
    rw [e, runResult_decoded fits depth whole wide high within]
    change State.Reaches _ _ (imageResult _ _ _ (decodeStream (pixelProduct (headerLatched Config.params s)).toNat _ _))
    rw [← count]
    exact reached

/-- R130, R201: the run from HDR, by the tests of the header. -/
theorem State.Inv.reaches_of_hdr :
    s.Reaches (1 + (1 + (stepBudget 0 (s.lenV.toNat - 896) + 769))) (runResult Config.params s.rawV s.lenV.toNat) := by
  have turn := (step_of_unscheduled alone).trans (coreTurn_hdr s hs)
  refine .of_step turn ?_
  rcases hdrStep_cases Config.params s hs with ⟨short, e⟩ | ⟨long, depth, e⟩ | ⟨long, depth, e⟩
  · rw [e, runResult_no_header fits short]
    exact .of_raise
  · rw [e, runResult_bad_depth fits long depth]
    exact .of_raise
  · rw [e]
    exact inv.reaches_of_latched hs alone fits long depth

end

/-- R192, R201: the run from `START`, by its test. -/
theorem State.Inv.reaches_of_start {s : State} (inv : s.Inv) (hs : s.stage = .idle) (alone : s.inputs = []) :
    (startStep Config.params s).Reaches (1 + (1 + (stepBudget 0 (s.lenV.toNat - 896) + 769)))
      (runResult Config.params s.rawV s.lenV.toNat) := by
  rcases startStep_cases Config.params s with ⟨long, e⟩ | ⟨fits, e⟩
  · rw [e, runResult_too_long long]
    exact .of_raise
  · rw [e]
    exact (inv.effect (.start hs fits)).reaches_of_hdr rfl alone fits

/-- R201's bound, part by part: `START`, `HDR`, `RLE.OPEN`, and the two stages. -/
theorem runBound_eq (len : Nat) : runBound len = 1 + (1 + (1 + (stepBudget 0 (len - 896) + 769))) := by
  rw [runBound, stepBudget, Config.minLen_eq]
  omega

/-- Settles O55: `START`, and the run from HDR. -/
theorem runComputesTheRunFunction : Obligations.RunComputesTheRunFunction := by
  intro s inv hs scheduled
  have started : step s = .next (startStep Config.params { s with inputs := [] }) :=
    (step_of_scheduled scheduled).trans (exec_start_of_idle hs)
  change s.Reaches (runBound s.lenV.toNat) _
  rw [runBound_eq]
  exact .of_step started ((inv.withInputs []).reaches_of_start hs rfl)

end Sys2Proof.Machine
end

section
/-! Proofs of the family `44_encoder_boundary.md`: the words that the Encoder's two packing functions answer (R211,
R212). -/

namespace Sys2Proof.Machine

/-! ## The value of a packed word -/

/-- A byte shifted above the bits in use, and not past the top, has no bit in common with them: the disjunction is the
sum. -/
theorem or_shiftedByte_toNat {low : Half} {v : Byte} {k : Nat} (below : low.toNat < 2 ^ k)
    (fits : 2 ^ k * v.toNat < 2 ^ 16) : (low ||| v.setWidth 16 <<< k).toNat = low.toNat + 2 ^ k * v.toNat := by
  have shifted : (v.setWidth 16 <<< k).toNat = 2 ^ k * v.toNat := by
    rw [BitVec.toNat_shiftLeft, BitVec.toNat_setWidth_of_le (by decide), Nat.shiftLeft_eq, Nat.mul_comm,
      Nat.mod_eq_of_lt fits]
  rw [BitVec.toNat_or, shifted, Nat.or_comm, ← Nat.two_pow_add_eq_or_of_lt below, Nat.add_comm]

/-- R212: with 5-bit channels the green field lies above the red one, and the blue field above both. -/
theorem packColour_toNat {r g b : Byte} (hr : r.toNat ≤ 31) (hg : g.toNat ≤ 31) (hb : b.toNat ≤ 31) :
    (packColour (r, g, b)).toNat = r.toNat + 32 * g.toNat + 1024 * b.toNat := by
  have red : (r.setWidth 16).toNat = r.toNat := BitVec.toNat_setWidth_of_le (by decide)
  have green : (r.setWidth 16 ||| g.setWidth 16 <<< 5).toNat = (r.setWidth 16).toNat + 32 * g.toNat :=
    or_shiftedByte_toNat (by omega) (by omega)
  have blue : (r.setWidth 16 ||| g.setWidth 16 <<< 5 ||| b.setWidth 16 <<< 10).toNat =
      (r.setWidth 16 ||| g.setWidth 16 <<< 5).toNat + 1024 * b.toNat := or_shiftedByte_toNat (by omega) (by omega)
  exact blue.trans (by rw [green, red])

/-! ## The packing functions in DONE -/

section
variable {s : State} (hs : s.stage = .done)
include hs

theorem exec_packPix_of_done {j : Nat} (hj : 2 * j + 1 < s.pixcntV.toNat) :
    exec (.packPix j) s = .next (respond (.word (packPixels (s.pixV (2 * j)) (s.pixV (2 * j + 1)))) s) :=
  congrArg _ (if_pos ⟨hs, hj⟩)

theorem exec_packPal_of_done {k : Nat} (hk : k < 256) :
    exec (.packPal k) s = .next (respond (.word (packColour (paletteEntry s k))) s) := congrArg _ (if_pos ⟨hs, hk⟩)

end

/-- Settles O29: the word answered is the pair of pixels side by side. -/
theorem pixelWordIsLowThenHigh : Obligations.PixelWordIsLowThenHigh := fun _ _ hs hj =>
  ⟨_, packPixels_toNat _ _, exec_packPix_of_done hs hj⟩

/-- Settles O30: the word answered is the packed entry, whose three channels are 5-bit fields. -/
theorem colourWordIsPacked555 : Obligations.ColourWordIsPacked555 := fun _ _ hs hk channels =>
  ⟨_, packColour_toNat (channels 0 (by decide)) (channels 1 (by decide)) (channels 2 (by decide)),
    exec_packPal_of_done hs hk⟩

end Sys2Proof.Machine
end

section
/-! Proofs of the family `60_exceptions.md`: the fault codes (R221), taking a fault (R226), and that it stays until
`CLEAR` or reset (R231). -/

namespace Sys2Proof.Machine

/-- Settles O59: a table of constants. -/
theorem faultCodesAreTheTable : Obligations.FaultCodesAreTheTable := ⟨rfl, rfl, rfl, rfl, rfl⟩

/-- R245: CORE has no enabled operation outside BUSY. -/
theorem selectCore_rest {s : State} (resting : s.stage.busy = false) : selectCore s = .rest := by
  unfold selectCore
  cases hs : s.stage with
  | idle | done | fault => rfl
  | hdr | opening | rle | pal =>
    rw [hs] at resting
    cases resting

theorem statusOf_raise (k : ErrKind) (s : State) : statusOf (raise k s) = .status .fault k false false true := rfl

/-- Settles O3: CORE rests in the stage entered, and `READ_STATUS` answers its status. -/
theorem raiseTakesTheFault : Obligations.RaiseTakesTheFault := by
  intro k s
  have resting : (raise k s).stage.busy = false := rfl
  refine ⟨rfl, selectCore_rest resting, coreTurn_rest _ resting, ?_⟩
  rw [← statusOf_raise k s]
  rfl

/-- R231: of the moves that write an element of CORE only `CLEAR` is in place in `FAULT`. -/
theorem HostStep.fault_stays {s t : State} {m : HostMove} (h : HostStep s m t) (hs : s.stage = .fault)
    (notClear : m ≠ .clear) : t.stage = .fault ∧ t.err = s.err := by
  cases h with
  | clear => exact absurd rfl notClear
  | start h' | writeLen _ h' | writeRaw _ _ h' => cases hs.symm.trans h'
  | ignored | answered | answeredFree => exact ⟨hs, rfl⟩

/-- Settles O4: CORE rests in `FAULT`, a move of HOST other than `CLEAR` stays there, and the two exits make the one
`release`. -/
theorem faultStaysUntilClearOrReset : Obligations.FaultStaysUntilClearOrReset := by
  intro s hs
  refine ⟨fun t e notClear notReset answered => ?_,
    ⟨_, exec_clear_of_ended (.inr hs), release_stage s, release_err s⟩, ⟨_, rfl, release_stage s, release_err s⟩⟩
  cases e with
  | core =>
    obtain rfl : t = s := (coreTurn_next_iff.mp answered).unique (.rest (by rw [hs]; rfl))
    exact ⟨hs, rfl, fun _ => rfl⟩
  | host m =>
    obtain ⟨stage, err⟩ := (hostStep_of_exec answered).fault_stays hs fun isClear => notClear (congrArg _ isClear)
    exact ⟨stage, err, nofun⟩
  | reset => exact absurd rfl notReset

end Sys2Proof.Machine
end

section
/-! Proofs of the family `70_reset_and_hazards.md`: the reset event (R260), and the cells of `RAW` that the outcome of a
run depends on (R264). -/

namespace Sys2Proof.Machine

/-- Settles O2: the reset event makes the one `release`, which leaves the reset state but for the model's own fields. -/
theorem resetEventAbandonsEverything : Obligations.ResetEventAbandonsEverything := fun _ _ scheduled =>
  step_of_scheduled scheduled

/-! ## What each part of `run` reads (R70) -/

theorem rawSlice_congr {raw raw' : Nat → Byte} {a n : Nat} (alike : ∀ i < n, raw (a + i) = raw' (a + i)) :
    rawSlice raw a n = rawSlice raw' a n := List.map_congr_left fun i hi => alike i (List.mem_range.mp hi)

theorem rawLe16_congr {raw raw' : Nat → Byte} {o : Nat} (low : raw o = raw' o) (high : raw (o + 1) = raw' (o + 1)) :
    rawLe16 raw o = rawLe16 raw' o := by
  rw [rawLe16, rawLe16, low, high]

section
variable {p : Config.Params} {raw raw' : Nat → Byte} {len : Nat}

/-- R134: the header registers are made of the five cells of the three relevant fields. -/
theorem runHeader_congr (alike : ∀ a, IsHeaderCell p a → raw a = raw' a) : runHeader p raw = runHeader p raw' := by
  have depth : raw 3 = raw' 3 := alike 3 (.inl rfl)
  have xmax : rawLe16 raw p.offXmax = rawLe16 raw' p.offXmax :=
    rawLe16_congr (alike _ (.inr (.inl rfl))) (alike _ (.inr (.inr (.inl rfl))))
  have ymax : rawLe16 raw p.offYmax = rawLe16 raw' p.offYmax :=
    rawLe16_congr (alike _ (.inr (.inr (.inr (.inl rfl))))) (alike _ (.inr (.inr (.inr (.inr rfl)))))
  rw [runHeader, runHeader, depth, xmax, ymax]

section
variable (long : 896 ≤ len) (alike : ∀ a, 128 ≤ a → a < len → raw a = raw' a)
include long alike

/-- R11: the compressed region ends before the palette block, so it lies between the header and `LEN`. -/
theorem rawSlice_compressed_congr : rawSlice raw 128 (len - 896) = rawSlice raw' 128 (len - 896) :=
  rawSlice_congr fun i _ => alike (128 + i) (by omega) (by omega)

/-- R17: the palette block ends at `LEN`, and in a file of at least 896 bytes it begins behind the header. -/
theorem rawSlice_palette_congr : rawSlice raw (len - 768) 768 = rawSlice raw' (len - 768) 768 :=
  rawSlice_congr fun i _ => alike (len - 768 + i) (by omega) (by omega)

theorem imageResult_congr (h : HdrView) (decoded : Except ErrKind (List Byte)) :
    imageResult h raw len decoded = imageResult h raw' len decoded := by
  cases decoded with
  | error k => rfl
  | ok out => rw [imageResult, imageResult, rawSlice_palette_congr long alike]

end

/-- The tests of `run` before the RLE stage see the header alone; only a file of at least 896 bytes gets past them, and
then `decode` and `quantize` see the two regions alone. -/
theorem runResult_congr (header : ∀ a, IsHeaderCell p a → raw a = raw' a)
    (body : ∀ a, 128 ≤ a → a < len → raw a = raw' a) : runResult p raw len = runResult p raw' len := by
  have same_depth : raw 3 = raw' 3 := header 3 (.inl rfl)
  have same_header : runHeader p raw = runHeader p raw' := runHeader_congr header
  rcases Nat.lt_or_ge p.rawCap len with too_long | fits
  · rw [runResult_too_long too_long, runResult_too_long too_long]
  rcases Nat.lt_or_ge len 128 with short | past_header
  · rw [runResult_no_header fits short, runResult_no_header fits short]
  by_cases depth : raw 3 = 8
  case neg =>
    rw [runResult_bad_depth fits past_header depth, runResult_bad_depth fits past_header (same_depth ▸ depth)]
  have depth' : raw' 3 = 8 := same_depth.symm.trans depth
  rcases Nat.lt_or_ge len 896 with short | long
  · rw [runResult_no_palette fits past_header depth short, runResult_no_palette fits past_header depth' short]
  by_cases size : (runHeader p raw).width.toInt < 1 ∨ (runHeader p raw).height.toInt < 1 ∨
      (p.pixCap : Int) < (runHeader p raw).width.toInt * (runHeader p raw).height.toInt
  case pos =>
    rw [runResult_bad_size fits depth long size, runResult_bad_size fits depth' long (same_header ▸ size)]
  obtain ⟨wide, high, within⟩ : 1 ≤ (runHeader p raw).width.toInt ∧ 1 ≤ (runHeader p raw).height.toInt ∧
      (runHeader p raw).width.toInt * (runHeader p raw).height.toInt ≤ p.pixCap := by
    simpa only [not_or, Int.not_lt] using size
  rw [runResult_decoded fits depth long wide high within, imageResult_congr long body,
    rawSlice_compressed_congr long body,
    runResult_decoded fits depth' long (same_header ▸ wide) (same_header ▸ high) (same_header ▸ within), same_header]

end

/-- Settles O56: the cells named are those of the header's fields and those of the two regions. -/
theorem outcomeDependsOnReadCellsOnly : Obligations.OutcomeDependsOnReadCellsOnly := by
  intro p raw raw' len alike
  refine runResult_congr (fun a cell => alike a ?_) fun a past_header within => alike a ?_
  · rcases cell with h | h | h | h | h <;> simp only [h, true_or, or_true]
  · exact .inr (.inr (.inr (.inr (.inr ⟨past_header, within⟩))))

end Sys2Proof.Machine
end

section
/-! Proofs of the family `other`: the answers of the Encoder's two packing functions where the spec defines no word
(log 15). -/

namespace Sys2Proof.Machine

theorem exec_packPix_of_undefined {s : State} {j : Nat} (undefined : s.stage ≠ .done ∨ s.pixcntV.toNat ≤ 2 * j + 1) :
    exec (.packPix j) s = .next (respondFree (.word (Config.undefinedWord s.draws)) s) := by
  have no_pair : ¬(s.stage = .done ∧ 2 * j + 1 < s.pixcntV.toNat) := fun ⟨hs, paired⟩ =>
    undefined.elim (· hs) (Nat.not_le.mpr paired)
  exact congrArg _ (if_neg no_pair)

theorem exec_packPal_of_undefined {s : State} {k : Nat} (undefined : s.stage ≠ .done ∨ 256 ≤ k) :
    exec (.packPal k) s = .next (respondFree (.word (Config.undefinedWord s.draws)) s) := by
  have no_entry : ¬(s.stage = .done ∧ k < 256) := fun ⟨hs, inside⟩ =>
    undefined.elim (· hs) (Nat.not_le.mpr inside)
  exact congrArg _ (if_neg no_entry)

/-- Settles O31: where no word is defined both functions make the one `respondFree`, which writes the port and the draw
counter alone. -/
theorem undefinedWordsAreFree : Obligations.UndefinedWordsAreFree :=
  ⟨fun _ _ => exec_packPix_of_undefined, fun _ _ => exec_packPal_of_undefined⟩

end Sys2Proof.Machine
end
